-- ==== Sys2Proof/Word.lean ====
section
/-! DEFINITION. The words of the core: bytes, the two register widths, and the pixel. -/

namespace Sys2Proof

/-- A byte, 0..255; also one colour channel (R8; `CH_BITS`, R5). -/
abbrev Byte := BitVec 8

/-- A 32-bit unsigned header field (R17, R18). -/
abbrev U32 := BitVec 32

/-- The width of `POS` and `N` (R15, R96). -/
abbrev U64 := BitVec 64

/-- A pixel: "4 independent 8-bit unsigned channels (r, g, b, a)" (R8, R11). Equality of pixels is equality of all four
channels (R92), which is what the derived equality decides. -/
structure Pixel where
  r : Byte
  g : Byte
  b : Byte
  a : Byte
  deriving DecidableEq, Repr

end Sys2Proof
end

