-- ==== Sys2Proof/Config.lean ====
section
/-! DEFINITION. The constants the source fixes (R5), as literals. The spec decides every point its source leaves open
(R6, 92_eei_decisions.md), so there is no parameter and no free value here. -/

namespace Sys2Proof.Config

/-- `PREV_INIT`: the previous pixel at the start of a pass (R5). -/
def prevInit : Pixel := ⟨0, 0, 0, 255⟩

/-- `SLOT_INIT`: every history slot at the start of a pass (R5). -/
def slotInit : Pixel := ⟨0, 0, 0, 0⟩

/-- `RUN_MAX`: the largest run length one Run chunk carries (R5). -/
def runMax : Nat := 62

/-- `MAGIC`: the ASCII codes of `q` `o` `i` `f` (R5, R66). -/
def magic : List Byte := [0x71, 0x6f, 0x69, 0x66]

/-- `END_MARKER`: the last 8 bytes of a stream (R5, R67). -/
def endMarker : List Byte := [0, 0, 0, 0, 0, 0, 0, 1]

/-- `TAG_RGB` (R5). -/
def tagRgb : Byte := 0xfe

/-- `TAG_RGBA` (R5). -/
def tagRgba : Byte := 0xff

/-- The legal values of `CHANNELS` (R5, R19). -/
def legalChannels (c : Byte) : Bool := c == 3 || c == 4

end Sys2Proof.Config
end

