-- ==== Sys2Proof/Syntax.lean ====
section
/-! DEFINITION. The instructions: the six chunk kinds and the two framing items of a compressed stream, one constructor
for each row of spec/opcode_table.json, in the table's order, with the operands of the notation of R81 and R82. -/

namespace Sys2Proof

/-- An item of the compressed stream (R68, R81, R82). Signed operands are the decoded values, not the biased fields. -/
inductive Instr where
  /-- `Index{slot}` (R70). -/
  | index (slot : Nat)
  /-- `Diff{dr,dg,db}` (R71). -/
  | diff (dr dg db : Int)
  /-- `Luma{dg,dr_minus_dg,db_minus_dg}` (R72). -/
  | luma (dg drDg dbDg : Int)
  /-- `Run{length}` (R73). -/
  | run (length : Nat)
  /-- `Rgb{r,g,b}` (R74). -/
  | rgb (r g b : Byte)
  /-- `Rgba{r,g,b,a}` (R75). -/
  | rgba (r g b a : Byte)
  /-- `Header{width,height,channels,colorspace}` (R66, R82). -/
  | header (width height : U32) (channels colorspace : Byte)
  /-- `End` (R67, R82). -/
  | endMarker
  deriving DecidableEq, Repr

/-- Where in a stream an item stands. A chunk is selected by its tag byte; the header and the end marker are selected
by position only (R80). -/
inductive Position where
  | header
  | chunk
  | marker
  deriving DecidableEq, Repr

/-- The place an item stands in (R65, R80). -/
def Instr.position : Instr → Position
  | .index _ => .chunk
  | .diff _ _ _ => .chunk
  | .luma _ _ _ => .chunk
  | .run _ => .chunk
  | .rgb _ _ _ => .chunk
  | .rgba _ _ _ _ => .chunk
  | .header _ _ _ _ => .header
  | .endMarker => .marker

end Sys2Proof
end

