-- ==== Sys2Proof/WellFormed.lean ====
section
/-! DEFINITION. Which terms of `Instr` are items of a stream: the operand ranges of R81. -/

namespace Sys2Proof

/-- `lo <= x <= hi`. -/
def inRange (lo hi x : Int) : Bool := decide (lo ≤ x) && decide (x ≤ hi)

/-- The operand ranges of R76 and R81; "an operand outside its range has no encoding and is a syntax error of the
notation, not a behaviour of the block". Every header is well formed: no header field but the magic has an illegal
encoding, and `CHANNELS` other than 3 or 4 is a behaviour (`BAD_CHANNELS`, R164), not a syntax error. -/
def Instr.wf : Instr → Bool
  | .index slot => decide (slot < 64)
  | .diff dr dg db => inRange (-2) 1 dr && inRange (-2) 1 dg && inRange (-2) 1 db
  | .luma dg drDg dbDg => inRange (-32) 31 dg && inRange (-8) 7 drDg && inRange (-8) 7 dbDg
  | .run length => decide (1 ≤ length) && decide (length ≤ 62)
  | .rgb _ _ _ => true
  | .rgba _ _ _ _ => true
  | .header _ _ _ _ => true
  | .endMarker => true

end Sys2Proof
end

