-- ==== Sys2Proof/Decode.lean ====
section
/-! DEFINITION. From bytes to items and back: the field and byte-order helpers, the decoder (total on any bytes,
rejecting by name), the encoder written from the same tables (R66 to R77), and the opcode table's numbering of bits. -/

namespace Sys2Proof

/-! ## Fields -/

/-- `t[lo+w-1:lo]` of R8, as an unsigned integer. -/
def bits (t : Byte) (lo w : Nat) : Nat := (t.extractLsb' lo w).toNat

/-- A signed field as it is decoded: the stored field less its bias (R76). -/
def unbias (k : Int) (field : Nat) : Int := (field : Int) - k

/-- A signed field as it is stored: the value plus its bias (R76). -/
def bias (k : Int) (d : Int) : Byte := BitVec.ofInt 8 (d + k)

/-- Four bytes of a stream as one integer, "big-endian, 4 bytes consumed" (R41, R44). -/
def be32 (b0 b1 b2 b3 : Byte) : U32 := b0 ++ b1 ++ b2 ++ b3

/-- The four bytes `U32Write` appends, in order (R42). -/
def u32Bytes (v : U32) : List Byte :=
  [v.extractLsb' 24 8, v.extractLsb' 16 8, v.extractLsb' 8 8, v.extractLsb' 0 8]

/-! ## Decoder -/

/-- Why bytes at a position are no item. None of these is an illegal tag: there is none (R78). -/
inductive Reject where
  /-- A read of the item finds no byte (R48). -/
  | tooShort
  /-- The first four bytes are not the magic (R66). -/
  | badMagic
  /-- The eight bytes are not the end marker (R101). -/
  | badPadding
  deriving DecidableEq, Repr

/-- The total length of a chunk from its tag byte alone (R77). -/
def chunkLength (t : Byte) : Nat :=
  if t = Config.tagRgb then 4
  else if t = Config.tagRgba then 5
  else if bits t 6 2 = 2 then 2
  else 1

/-- A chunk: the tag dispatch of R69 in its order, then the fields of R70 to R75. -/
def decodeChunk : List Byte → Except Reject Instr
  | [] => .error .tooShort
  | t :: rest =>
    if t = Config.tagRgb then
      match rest with
      | r :: g :: b :: _ => .ok (.rgb r g b)
      | _ => .error .tooShort
    else if t = Config.tagRgba then
      match rest with
      | r :: g :: b :: a :: _ => .ok (.rgba r g b a)
      | _ => .error .tooShort
    else if bits t 6 2 = 0 then
      .ok (.index (bits t 0 6))
    else if bits t 6 2 = 1 then
      .ok (.diff (unbias 2 (bits t 4 2)) (unbias 2 (bits t 2 2)) (unbias 2 (bits t 0 2)))
    else if bits t 6 2 = 2 then
      match rest with
      | u :: _ => .ok (.luma (unbias 32 (bits t 0 6)) (unbias 8 (bits u 4 4)) (unbias 8 (bits u 0 4)))
      | _ => .error .tooShort
    else
      .ok (.run (bits t 0 6 + 1))

/-- A header (R66), in the order of checks of R100 and R167: all four magic bytes are there, they are the magic, the
remaining ten are there. -/
def decodeHeader : List Byte → Except Reject Instr
  | m0 :: m1 :: m2 :: m3 :: rest =>
    if [m0, m1, m2, m3] = Config.magic then
      match rest with
      | w0 :: w1 :: w2 :: w3 :: h0 :: h1 :: h2 :: h3 :: c :: cs :: _ =>
        .ok (.header (be32 w0 w1 w2 w3) (be32 h0 h1 h2 h3) c cs)
      | _ => .error .tooShort
    else .error .badMagic
  | _ => .error .tooShort

/-- An end marker (R67): all eight bytes are read, then compared (R101, D10). -/
def decodeMarker (bs : List Byte) : Except Reject Instr :=
  if bs.length < 8 then .error .tooShort
  else if bs.take 8 = Config.endMarker then .ok .endMarker
  else .error .badPadding

/-- The item at a position (R80): the decoder of the model. -/
def decodeAt : Position → List Byte → Except Reject Instr
  | .header, bs => decodeHeader bs
  | .chunk, bs => decodeChunk bs
  | .marker, bs => decodeMarker bs

/-! ## Encoder -/

/-- How many bytes an item takes in a stream (R66, R67, R77). -/
def Instr.length : Instr → Nat
  | .index _ => 1
  | .diff _ _ _ => 1
  | .luma _ _ _ => 2
  | .run _ => 1
  | .rgb _ _ _ => 4
  | .rgba _ _ _ _ => 5
  | .header _ _ _ _ => 14
  | .endMarker => 8

/-- The bytes of an item: the tag bytes and operand bytes of R76 and R81, the header of R66, the end marker of R67. -/
def encode : Instr → List Byte
  | .index slot => [0x00#8 ||| BitVec.ofNat 8 slot]
  | .diff dr dg db => [0x40#8 ||| (bias 2 dr <<< 4) ||| (bias 2 dg <<< 2) ||| bias 2 db]
  | .luma dg drDg dbDg => [0x80#8 ||| bias 32 dg, (bias 8 drDg <<< 4) ||| bias 8 dbDg]
  | .run length => [0xc0#8 ||| BitVec.ofNat 8 (length - 1)]
  | .rgb r g b => [Config.tagRgb, r, g, b]
  | .rgba r g b a => [Config.tagRgba, r, g, b, a]
  | .header w h c cs => Config.magic ++ u32Bytes w ++ u32Bytes h ++ [c, cs]
  | .endMarker => Config.endMarker

/-! ## The opcode table's numbering

The table numbers a chunk's bits byte by byte, the tag byte lowest. It gives `Header` and `End` as big-endian values
instead: `match` 0x716f6966 is "the first 4 bytes read as one big-endian value", and 0x0000000000000001 is the eight
bytes of the end marker read so. Both numberings of those two rows are accepted (notes/assumptions/9.md). -/

/-- The magic as the table's big-endian number. -/
def magicWord : Nat := 0x716f6966

/-- Does `w` number a header as big-endian 32-bit words? -/
def numbersHeaderWords (w : Nat) : Bool := w % 2 ^ 32 == magicWord

/-- The position of the table's row: the rows of 14 and of 8 bytes, and any row that shows the magic, are framing. -/
def tablePosition (nbits w : Nat) : Position :=
  if nbits = 112 then .header
  else if nbits = 64 then .marker
  else if numbersHeaderWords (w % 2 ^ nbits) then .header
  else .chunk

/-- Byte `k` of a number whose lowest byte is byte 0. -/
def byteOf (w k : Nat) : Byte := BitVec.ofNat 8 (w / 2 ^ (8 * k))

/-- The first `k` bytes of a number, lowest byte first. -/
def littleBytes (w k : Nat) : List Byte := (List.range k).map (byteOf w)

/-- The bytes of the table's row as the stream stores them, filled with zeros up to the longest item (14 bytes). -/
def tableBytes (nbits w : Nat) : List Byte :=
  let v := w % 2 ^ nbits
  match tablePosition nbits w with
  | .header =>
    if numbersHeaderWords v then
      u32Bytes (BitVec.ofNat 32 v) ++ u32Bytes (BitVec.ofNat 32 (v / 2 ^ 32)) ++
        u32Bytes (BitVec.ofNat 32 (v / 2 ^ 64)) ++ [byteOf v 12, byteOf v 13]
    else littleBytes v 14
  | .marker => if v = 1 then Config.endMarker ++ littleBytes 0 6 else littleBytes v 14
  | .chunk => littleBytes v 14

/-- The item the decoder reads from a row of the opcode table. -/
def decodeTableWord (nbits w : Nat) : Option Instr :=
  match decodeAt (tablePosition nbits w) (tableBytes nbits w) with
  | .ok i => some i
  | .error _ => none

end Sys2Proof
end

