-- ==== Sys2Proof/Machine/State.lean ====
section
/-! DEFINITION. The state of the core (R10), the streams it is bound to (R24, R40), the host's pending moves (R172), the
reasons a step can stop, and the state after hardware reset (R27). -/

namespace Sys2Proof.Machine

/-- `MODE` (R16): which of the two operations the pass performs. -/
inductive Mode where
  | enc
  | dec
  deriving DecidableEq, Repr

/-- `PHASE` (R21). -/
inductive Phase where
  | idle
  | header
  | pixels
  | padding
  | done
  | fault
  deriving DecidableEq, Repr

/-- `CAUSE` (R23). -/
inductive Cause where
  | none
  | badMagic
  | badPadding
  | srcUnderrun
  | badChannels
  deriving DecidableEq, Repr

/-- The abnormal outcomes of R160: what `raise` takes. -/
inductive Failure where
  | badMagic
  | badPadding
  | srcUnderrun
  | badChannels
  deriving DecidableEq, Repr

/-- A source: "sequential, position-tracked" (R41, R43). `pos` is the offset of the next byte a read consumes. -/
structure Source where
  bytes : List Byte
  pos   : Nat
  deriving DecidableEq, Repr

/-- The bytes no read has consumed yet. -/
def Source.rest (src : Source) : List Byte := src.bytes.drop src.pos

/-- What the host can do between passes: bind the streams of the next pass, or issue `Start` (R97, R172, R187). -/
inductive HostMove where
  /-- Bind a byte source that holds these bytes, its cursor at the first, and an empty pixel sink. -/
  | bindDec (stream : List Byte)
  /-- Bind a pixel source that holds these bytes, its cursor at the first, and an empty byte sink. -/
  | bindEnc (pixels : List Byte)
  /-- `Start(ENC, width, height, channels, colorspace)`. -/
  | startEnc (width height : U32) (channels colorspace : Byte)
  /-- `Start(DEC)`. -/
  | startDec
  deriving DecidableEq, Repr

/-- Why the machine stops. The abnormal outcomes of R160 are no stop: they are next states with `PHASE` changed. -/
inductive Fault where
  /-- Raised by `step` in `IDLE`, `DONE` and `FAULT` when the host has no move pending: no step of the core is enabled
  there (R21, R30), the machine is stuck until the host issues Start. Safe: the hardware only waits. -/
  | awaitingHost
  deriving DecidableEq, Repr

/-- Why an item is given no meaning in a state. `step` never answers one of these in a state that meets `Inv`. -/
inductive Refusal where
  /-- Raised by no arm of `exec` now: an instruction whose meaning is not written, by its mnemonic. Safe. -/
  | notModelled (mnemonic : String)
  /-- Raised by every meaning for operands outside the ranges of R81, which have no encoding and are no behaviour of
  the block. Safe: nothing is claimed of them. -/
  | illFormed
  /-- Raised by every meaning where the item has no step: `PHASE` is not the item's (R30), or, in `ENC`, a `Header` or
  `Run` whose operand is not what R98 and R114 read it from. Safe: nothing is claimed of it. -/
  | notEnabled
  deriving DecidableEq, Repr

/-- The state of the core (R10) and of its environment. -/
structure State where
  /-- `PREV` (R11). -/
  prev        : Pixel
  /-- `HIST[0..63]` (R13). -/
  hist        : Vector Pixel 64
  /-- `RUN` (R14). -/
  run         : BitVec 6
  /-- `POS` (R15). -/
  pos         : U64
  /-- `N` (R15, R96). -/
  n           : U64
  /-- `MODE` (R16). -/
  mode        : Mode
  /-- `WIDTH` (R17). -/
  width       : U32
  /-- `HEIGHT` (R18). -/
  height      : U32
  /-- `CHANNELS` (R19). -/
  channels    : Byte
  /-- `COLORSPACE` (R20). -/
  colorspace  : Byte
  /-- `PHASE` (R21). -/
  phase       : Phase
  /-- `RESULT` (R22). -/
  result      : Bool
  /-- `CAUSE` (R23). -/
  cause       : Cause
  /-- The byte source of a `DEC` pass; its `pos` is `IN_POS` (R24, R41). -/
  byteSource  : Source
  /-- The pixel source of an `ENC` pass (R43). -/
  pixelSource : Source
  /-- The byte sink of an `ENC` pass, every byte written so far in order (R42). -/
  byteSink    : List Byte
  /-- The pixel sink of a `DEC` pass, every byte written so far in order (R43). -/
  pixelSink   : List Byte
  /-- The model's own: do the header registers hold a value of this pass (R26, R100, R169)? -/
  headerValid : Bool
  /-- The model's own: the moves the host will make when it may, oldest first (R172). -/
  hostMoves   : List HostMove
  deriving DecidableEq, Repr

/-- `OUT_POS` (R24, R42): the byte sink is append-only, so its cursor is its length. -/
def State.outPos (s : State) : Nat := s.byteSink.length

/-- The pixel sink's cursor (R24, R43). -/
def State.pixelOutPos (s : State) : Nat := s.pixelSink.length

/-- After hardware reset: `PHASE = IDLE`, `RESULT = false`, `CAUSE = NONE` (R27). Every other value is a DESIGN CHOICE
(notes/assumptions/1.md): what Start writes (R26) for `PREV`, `HIST`, `RUN`, `POS`, zero for the rest, no stream bound. -/
def State.reset : State where
  prev        := Config.prevInit
  hist        := Vector.replicate 64 Config.slotInit
  run         := 0
  pos         := 0
  n           := 0
  mode        := .enc
  width       := 0
  height      := 0
  channels    := 0
  colorspace  := 0
  phase       := .idle
  result      := false
  cause       := .none
  byteSource  := ⟨[], 0⟩
  pixelSource := ⟨[], 0⟩
  byteSink    := []
  pixelSink   := []
  headerValid := false
  hostMoves   := []

/-- What a step answers. -/
abbrev Result := Host.Outcome State Fault Refusal

end Sys2Proof.Machine
end

