-- ==== Sys2Proof/Machine/Flags.lean ====
section
/-! DEFINITION. The status registers `RESULT`, `CAUSE`, `PHASE`: what each outcome of a pass writes to them (R21 to R23,
R160), the codes of `CAUSE`, and the end tests of the pixel phase. The core has no other flag (R25). -/

namespace Sys2Proof.Machine

/-- The numeric codes of `CAUSE` (R23). -/
def Cause.code : Cause → Nat
  | .none => 0
  | .badMagic => 1
  | .badPadding => 2
  | .srcUnderrun => 3
  | .badChannels => 4

/-- The value of `CAUSE` for each outcome (R160). -/
def Failure.cause : Failure → Cause
  | .badMagic => .badMagic
  | .badPadding => .badPadding
  | .srcUnderrun => .srcUnderrun
  | .badChannels => .badChannels

/-- The value of `PHASE` after each outcome (R160): the source's two failures end the pass normally, the other two are
hard faults. -/
def Failure.phase : Failure → Phase
  | .badMagic => .done
  | .badPadding => .done
  | .srcUnderrun => .fault
  | .badChannels => .fault

/-- Taking an abnormal outcome (R168): it writes `RESULT`, `CAUSE` and `PHASE`, saves nothing and transfers control
nowhere. -/
def raise (f : Failure) (s : State) : State :=
  { s with result := false, cause := f.cause, phase := f.phase }

/-- A pass that ends well (R99, R101): `RESULT <- true; PHASE <- DONE`. -/
def succeed (s : State) : State :=
  { s with result := true, phase := .done }

/-- `PHASE` after a header step (R98, R100): an image of no pixels has no pixel phase (D19). -/
def phaseAfterHeader (n : U64) : Phase := if n = 0 then .padding else .pixels

/-- `if POS = N then PHASE <- PADDING` (R122, R145). -/
def endOfPixels (s : State) : State :=
  if s.pos = s.n then { s with phase := .padding } else s

end Sys2Proof.Machine
end

