-- ==== Sys2Proof/Machine/Operands.lean ====
section
/-! DEFINITION. Channel arithmetic (R93 to R95), the hash (R90), the pixel each chunk stands for (R137 to R141), and the
encoder's choice of a chunk for a pixel (R117 to R120, R123). -/

namespace Sys2Proof.Machine

/-- `wrap8(v) = v mod 256` (R8). -/
def wrap8 (v : Int) : Byte := BitVec.ofInt 8 v

/-- `s8(v)`: the signed reading of `wrap8(v)`, in -128..127 (R8). -/
def s8 (v : Int) : Int := (wrap8 v).toInt

/-- A channel plus a signed delta (R93): modulo 256, no carry to another channel. -/
def addDelta (c : Byte) (d : Int) : Byte := wrap8 ((c.toNat : Int) + d)

/-- A channel difference as the encoder reads it (R94). -/
def delta (cur prev : Byte) : Int := s8 ((cur.toNat : Int) - (prev.toNat : Int))

/-- `hash(p) = (r*3 + g*5 + b*7 + a*11) mod 64` (R90), the products and the sum exact. -/
def hashPixel (p : Pixel) : Fin 64 :=
  Fin.ofNat 64 (p.r.toNat * 3 + p.g.toNat * 5 + p.b.toNat * 7 + p.a.toNat * 11)

/-- `N = WIDTH * HEIGHT`, exact in 64 bits (R96). -/
def pixelBudget (width height : U32) : U64 := BitVec.ofNat 64 (width.toNat * height.toNat)

/-- A pixel with its three colour channels moved and its alpha kept (R140, R141). -/
def shiftPixel (p : Pixel) (dr dg db : Int) : Pixel :=
  ⟨addDelta p.r dr, addDelta p.g dg, addDelta p.b db, p.a⟩

/-- The red and blue deltas of a Luma chunk are relative to the green one (R141). -/
def lumaPixel (p : Pixel) (dg drDg dbDg : Int) : Pixel := shiftPixel p (drDg + dg) dg (dbDg + dg)

/-- An Rgb chunk's pixel: "alpha unchanged from previous" (R137). -/
def rgbPixel (p : Pixel) (r g b : Byte) : Pixel := ⟨r, g, b, p.a⟩

/-- The bytes of a pixel in a raw pixel stream (R43, R102): alpha only where `CHANNELS = 4`. -/
def pixelBytes (channels : Byte) (p : Pixel) : List Byte :=
  if channels = 4 then [p.r, p.g, p.b, p.a] else [p.r, p.g, p.b]

/-- "all of dr,dg,db within [-2,1]" (R117). -/
def diffFits (dr dg db : Int) : Bool :=
  decide (-2 ≤ dr) && decide (dr ≤ 1) && decide (-2 ≤ dg) && decide (dg ≤ 1) && decide (-2 ≤ db) && decide (db ≤ 1)

/-- "dg within [-32,31], and the green-relative red/blue deltas within [-8,7]" (R118), exact differences (R95). -/
def lumaFits (dr dg db : Int) : Bool :=
  decide (-32 ≤ dg) && decide (dg ≤ 31) && decide (-8 ≤ dr - dg) && decide (dr - dg ≤ 7) &&
    decide (-8 ≤ db - dg) && decide (db - dg ≤ 7)

/-- The chunk of a pixel that neither continues a run nor hits the history table: Diff, Luma, Rgb in this order while
alpha is unchanged, else Rgba (R117 to R120, R123). -/
def literalChunk (prev cur : Pixel) : Instr :=
  let dr := delta cur.r prev.r
  let dg := delta cur.g prev.g
  let db := delta cur.b prev.b
  if cur.a = prev.a then
    if diffFits dr dg db then .diff dr dg db
    else if lumaFits dr dg db then .luma dg (dr - dg) (db - dg)
    else .rgb cur.r cur.g cur.b
  else .rgba cur.r cur.g cur.b cur.a

end Sys2Proof.Machine
end

