-- ==== Sys2Proof/Machine/Ops.lean ====
section
/-! DEFINITION. The shared operations: the history table, the streams, abnormal outcomes, Start and the other host
moves, and the conditions under which an item's step is enabled. -/

namespace Sys2Proof.Machine

/-! ## History table (R13, R50) -/

/-- A read of `HIST[i]`: the whole slot. -/
def State.histRead (s : State) (i : Fin 64) : Pixel := s.hist[i.val]

/-- `HIST[hash(p)] <- p`, the only write port: "unconditional overwrite". -/
def State.histWrite (s : State) (p : Pixel) : State :=
  { s with hist := s.hist.set (hashPixel p).val p }

/-! ## Streams (R41 to R43, R47) -/

/-- A source after `k` bytes of it are consumed. -/
def Source.advance (src : Source) (k : Nat) : Source := { src with pos := src.pos + k }

/-- A source after a read found no byte: every byte there was has been consumed (R163, 90_conflicts.md C10). -/
def Source.exhaust (src : Source) : Source := { src with pos := max src.pos src.bytes.length }

/-- `k` bytes of the byte source are consumed. -/
def State.advance (s : State) (k : Nat) : State := { s with byteSource := s.byteSource.advance k }

/-- `ByteWrite` of each byte in turn (R42). -/
def State.byteWrites (s : State) (bs : List Byte) : State := { s with byteSink := s.byteSink ++ bs }

/-- `PixEmit(p)` (R102). -/
def State.pixEmit (s : State) (p : Pixel) : State :=
  { s with pixelSink := s.pixelSink ++ pixelBytes s.channels p }

/-! ## Source underrun (R48, R163) -/

/-- A `DEC` step that finds its source exhausted: the step is abandoned whole, only the cursor and the status move. -/
def byteUnderrun (s : State) : State :=
  raise .srcUnderrun { s with byteSource := s.byteSource.exhaust }

/-- The same for the encoder's pixel source. -/
def pixelUnderrun (s : State) : State :=
  raise .srcUnderrun { s with pixelSource := s.pixelSource.exhaust }

/-! ## The commit of a decoded pixel (R143, R145) and the replay of a run (R142) -/

/-- `HIST[hash(cur)] <- cur; PixEmit(cur); PREV <- cur; POS <- POS + 1`, then the end test. -/
def commit (cur : Pixel) (s : State) : State :=
  let s := (s.histWrite cur).pixEmit cur
  endOfPixels { s with prev := cur, pos := s.pos + 1 }

/-- One repetition of a run. -/
def replayPixel (s : State) : State :=
  let s := (s.histWrite s.prev).pixEmit s.prev
  { s with pos := s.pos + 1 }

/-- `k` repetitions of a run. -/
def replay : Nat → State → State
  | 0, s => s
  | k + 1, s => replay k (replayPixel s)

/-- `n = min(length, N - POS)` (R144). -/
def clippedLength (s : State) (length : Nat) : Nat := min length (s.n.toNat - s.pos.toNat)

/-! ## Emission by the encoder (R114 to R120) -/

/-- The item's bytes go to the byte sink. -/
def emit (i : Instr) (s : State) : State := s.byteWrites (encode i)

/-- Emission of a Run chunk also writes `RUN <- 0` (R114). -/
def emitRun (length : Nat) (s : State) : State := { emit (.run length) s with run := 0 }

/-! ## When an item has a step (R30, R81) -/

/-- The one phase in which items of a position have their step (R30). -/
def phaseOf : Position → Phase
  | .header => .header
  | .chunk => .pixels
  | .marker => .padding

/-- An item's step: refused where it is no item (R81) or where `PHASE` is not its own (R30), else what it does in the
mode of the pass (R171). -/
def perform (i : Instr) (s : State) (dec enc : State → Result) : Result :=
  if i.wf = false then .refused .illFormed
  else if s.phase ≠ phaseOf i.position then .refused .notEnabled
  else match s.mode with
    | .dec => dec s
    | .enc => enc s

/-- A chunk's step: the pixel it decodes to is committed; the encoder appends its bytes. -/
def performPixel (i : Instr) (cur : State → Pixel) (s : State) : Result :=
  perform i s (fun s => .next (commit (cur s) s)) (fun s => .next (emit i s))

/-! ## The host (R97, R172) -/

/-- What `Start` writes in either mode (R26, R97). -/
def startCommon (mode : Mode) (s : State) : State :=
  { s with
    prev := Config.prevInit
    hist := Vector.replicate 64 Config.slotInit
    run := 0
    pos := 0
    mode := mode
    phase := .header
    result := false
    cause := .none
    headerValid := false }

/-- `Start(ENC, width, height, channels, colorspace)` (R97). -/
def startEnc (width height : U32) (channels colorspace : Byte) (s : State) : State :=
  { startCommon .enc s with
    width := width
    height := height
    channels := channels
    colorspace := colorspace
    headerValid := true }

/-- `Start(DEC)` (R97): the header registers hold no value of the new pass yet (R26). -/
def startDec (s : State) : State := startCommon .dec s

/-- One move of the host. Start neither rewinds nor clears a stream (R59); binding does. -/
def hostMove : HostMove → State → State
  | .bindDec stream, s => { s with byteSource := ⟨stream, 0⟩, pixelSink := [] }
  | .bindEnc pixels, s => { s with pixelSource := ⟨pixels, 0⟩, byteSink := [] }
  | .startEnc w h c cs, s => startEnc w h c cs s
  | .startDec, s => startDec s

/-- Between passes only the host moves (R30): its next pending move is made, or the machine is stuck. -/
def hostStep (s : State) : Result :=
  match s.hostMoves with
  | [] => .fault .awaitingHost
  | m :: rest => .next (hostMove m { s with hostMoves := rest })

end Sys2Proof.Machine
end

