-- ==== Sys2Proof/Machine/Cache.lean ====
section
/-! DEFINITION. The chunks that repeat a pixel: `Index` (R115, R139) and `Run` (R114, R142). -/

namespace Sys2Proof.Machine

/-- `Index`. Decoded: `cur = HIST[slot]`, verbatim, then the commit (R139). Encoded: the slot's byte, the history table
not rewritten (R115). -/
def execIndex (slot : Nat) (s : State) : Result :=
  performPixel (.index slot) (fun s => s.histRead (Fin.ofNat 64 slot)) s

/-- `Run`. Decoded: `PREV` is replayed for the clipped length (R142, R144), then the end test (R145). Encoded: its
operand is `RUN`, which the emission clears (R114). -/
def execRun (length : Nat) (s : State) : Result :=
  perform (.run length) s
    (fun s => .next (endOfPixels (replay (clippedLength s length) s)))
    (fun s => if length = s.run.toNat then .next (emitRun length s) else .refused .notEnabled)

end Sys2Proof.Machine
end

