-- ==== Sys2Proof/Machine/Delta.lean ====
section
/-! DEFINITION. The delta-coded chunks: `Diff` (R117, R140) and `Luma` (R118, R141). -/

namespace Sys2Proof.Machine

/-- `Diff`: each delta is added to the channel of `PREV`, "alpha unchanged" (R140). -/
def execDiff (dr dg db : Int) (s : State) : Result :=
  performPixel (.diff dr dg db) (fun s => shiftPixel s.prev dr dg db) s

/-- `Luma`: the green delta, and the red and blue ones relative to it (R141). -/
def execLuma (dg drDg dbDg : Int) (s : State) : Result :=
  performPixel (.luma dg drDg dbDg) (fun s => lumaPixel s.prev dg drDg dbDg) s

end Sys2Proof.Machine
end

