-- ==== Sys2Proof/Machine/Framing.lean ====
section
/-! DEFINITION. The framing items: `Header` (R98, R100) and `End` (R99, R101). -/

namespace Sys2Proof.Machine

/-- The header step once the fourteen bytes are read and the magic matched (R100): the header registers are written,
then `CHANNELS` is checked, then the budget is set. -/
def decHeader (width height : U32) (channels colorspace : Byte) (s : State) : State :=
  let s := { s with
    width := width, height := height, channels := channels, colorspace := colorspace, headerValid := true }
  if Config.legalChannels channels then
    { s with n := pixelBudget width height, phase := phaseAfterHeader (pixelBudget width height) }
  else raise .badChannels s

/-- The encoder header step (R98): `BAD_CHANNELS` before the first write, else fourteen bytes and the budget. -/
def encHeader (width height : U32) (channels colorspace : Byte) (s : State) : State :=
  if Config.legalChannels channels then
    { emit (.header width height channels colorspace) s with
      n := pixelBudget width height, phase := phaseAfterHeader (pixelBudget width height) }
  else raise .badChannels s

/-- `Header`. In `ENC` its operands are the header registers (R98). -/
def execHeader (width height : U32) (channels colorspace : Byte) (s : State) : Result :=
  perform (.header width height channels colorspace) s
    (fun s => .next (decHeader width height channels colorspace s))
    (fun s =>
      if width = s.width ∧ height = s.height ∧ channels = s.channels ∧ colorspace = s.colorspace then
        .next (encHeader width height channels colorspace s)
      else .refused .notEnabled)

/-- `End`. Decoded: the eight bytes matched, the pass succeeds (R101). Encoded: the eight bytes are appended and the
pass succeeds (R99). -/
def execEnd (s : State) : Result :=
  perform .endMarker s (fun s => .next (succeed s)) (fun s => .next (succeed (emit .endMarker s)))

end Sys2Proof.Machine
end

