-- ==== Sys2Proof/Machine/Literal.lean ====
section
/-! DEFINITION. The literal chunks: `Rgb` (R119, R137) and `Rgba` (R120, R138). -/

namespace Sys2Proof.Machine

/-- `Rgb`: three literal channels, "alpha unchanged from previous" (R137). -/
def execRgb (r g b : Byte) (s : State) : Result :=
  performPixel (.rgb r g b) (fun s => rgbPixel s.prev r g b) s

/-- `Rgba`: four literal channels, also in a 3-channel stream (R138, R148). -/
def execRgba (r g b a : Byte) (s : State) : Result :=
  performPixel (.rgba r g b a) (fun _ => ⟨r, g, b, a⟩) s

end Sys2Proof.Machine
end

