-- ==== Sys2Proof/Machine/Dispatch.lean ====
section
/-! DEFINITION. One arm for each row of the opcode table: the meaning of an item, decoded in a `DEC` pass and emitted in an
`ENC` pass. -/

namespace Sys2Proof.Machine

def exec (i : Instr) (s : State) : Host.Outcome State Fault Refusal :=
  match i with
  | .index slot => Sys2Proof.Machine.execIndex slot s
  | .diff dr dg db => Sys2Proof.Machine.execDiff dr dg db s
  | .luma dg drDg dbDg => Sys2Proof.Machine.execLuma dg drDg dbDg s
  | .run length => Sys2Proof.Machine.execRun length s
  | .rgb r g b => Sys2Proof.Machine.execRgb r g b s
  | .rgba r g b a => Sys2Proof.Machine.execRgba r g b a s
  | .header width height channels colorspace => Sys2Proof.Machine.execHeader width height channels colorspace s
  | .endMarker => Sys2Proof.Machine.execEnd s

end Sys2Proof.Machine
end

