-- ==== Sys2Proof/Machine/Encoder.lean ====
section
/-! DEFINITION. The encoder pixel step (R110 to R122). -/

namespace Sys2Proof.Machine

/-- The pixel at the pixel source's cursor (R111): three or four bytes in the order r, g, b, a; without an alpha byte
alpha is `PREV.a`. `none`: a `PixRead` finds no byte (R48). -/
def nextPixel (s : State) : Option Pixel :=
  match s.pixelSource.rest with
  | r :: g :: b :: rest =>
    if s.channels = 4 then
      match rest with
      | a :: _ => some ⟨r, g, b, a⟩
      | [] => none
    else some ⟨r, g, b, s.prev.a⟩
  | _ => none

/-- How many bytes of the pixel source a pixel takes (R43). -/
def pixelSize (channels : Byte) : Nat := if channels = 4 then 4 else 3

/-- The fetch done: the bytes are consumed and `POS` counts the pixel (R111). -/
def fetchPixel (s : State) : State :=
  { s with pixelSource := s.pixelSource.advance (pixelSize s.channels), pos := s.pos + 1 }

/-- A pixel equal to `PREV` (R112): counted, and a Run chunk at the cap or at the last pixel. -/
def continueRun (s : State) : State :=
  let s := { s with run := s.run + 1 }
  if s.run = 62 ∨ s.pos = s.n then emitRun s.run.toNat s else s

/-- A pending run is flushed before anything else of a differing pixel (R113). -/
def flushRun (s : State) : State := if s.run = 0 then s else emitRun s.run.toNat s

/-- A pixel that differs from `PREV` (R115 to R120): an Index chunk if its slot holds it, else the slot is written and
the first chunk that fits is emitted. -/
def encodeFresh (cur : Pixel) (s : State) : State :=
  if s.histRead (hashPixel cur) = cur then emit (.index (hashPixel cur).val) s
  else emit (literalChunk s.prev cur) (s.histWrite cur)

/-- The step once `cur` is fetched (R110, R121, R122). -/
def encodePixel (cur : Pixel) (s : State) : State :=
  let s := if cur = s.prev then continueRun s else encodeFresh cur (flushRun s)
  endOfPixels { s with prev := cur }

/-- The encoder pixel step (R110); a short pixel source abandons it whole (R163). -/
def encPixelStep (s : State) : State :=
  match nextPixel s with
  | none => pixelUnderrun s
  | some cur => encodePixel cur (fetchPixel s)

end Sys2Proof.Machine
end

