-- ==== Sys2Proof/Machine/Fetch.lean ====
section
/-! DEFINITION. Fetching an item from the byte source in a `DEC` pass (R100, R101, R136), and placing one there. -/

namespace Sys2Proof.Machine

/-- The position of the item a `DEC` pass reads next; meaningful in the three running phases. -/
def fetchPosition (s : State) : Position :=
  match s.phase with
  | .header => .header
  | .padding => .marker
  | _ => .chunk

/-- The item at the byte source's cursor. -/
def fetch (s : State) : Except Reject Instr := decodeAt (fetchPosition s) s.byteSource.rest

/-- The step of bytes that are no item: a source that is too short (R163), four bytes that are not the magic, consumed
(R161), eight bytes that are not the end marker, consumed (R162). -/
def rejected : Reject → State → State
  | .tooShort, s => byteUnderrun s
  | .badMagic, s => raise .badMagic (s.advance 4)
  | .badPadding, s => raise .badPadding (s.advance 8)

/-- Bytes written over a source at its cursor, whatever it held there. -/
def Source.place (src : Source) (bs : List Byte) : Source :=
  { src with bytes := src.bytes.take src.pos ++ List.replicate (src.pos - src.bytes.length) 0 ++ bs ++
      src.bytes.drop (src.pos + bs.length) }

/-- A state whose next step fetches an item at a position: a running `DEC` pass in that position's phase. In the pixel
phase it also needs a budget with room for the longest run, and legal `CHANNELS` (R19), without which no pass gets
there; both are left as they are where they already serve (notes/assumptions/2.md). -/
def standAt (p : Position) (s : State) : State :=
  let s := { s with mode := .dec, phase := phaseOf p }
  if p = .chunk then
    { s with
      n := if s.pos.toNat + 62 ≤ s.n.toNat then s.n else s.pos + 62
      channels := if Config.legalChannels s.channels then s.channels else 4 }
  else s

/-- Placing bytes as the next item of a `DEC` pass. -/
def placeItem (p : Position) (bs : List Byte) (s : State) : State :=
  let s := standAt p s
  { s with byteSource := s.byteSource.place bs }

end Sys2Proof.Machine
end

