-- ==== Sys2Proof/Machine/Step.lean ====
section
/-! DEFINITION. One step (R30): an item fetched and run in a `DEC` pass, the encoder's step in an `ENC` pass, a move of the
host between passes; and the placing of an item for the host's probe. -/

namespace Sys2Proof.Machine

/-- A step of a `DEC` pass: the item at the cursor is consumed and run (R100, R101, R135). -/
def decStep (s : State) : Host.Outcome State Fault Refusal :=
  match fetch s with
  | .ok i => exec i (s.advance i.length)
  | .error r => .next (rejected r s)

/-- A step of an `ENC` pass: the header of the header registers (R98), a pixel (R110), the end marker (R99). -/
def encStep (s : State) : Host.Outcome State Fault Refusal :=
  match s.phase with
  | .header => exec (.header s.width s.height s.channels s.colorspace) s
  | .padding => exec .endMarker s
  | _ => .next (encPixelStep s)

/-- One step of the machine. In `IDLE`, `DONE` and `FAULT` only the host moves (R30). -/
def step (s : State) : Host.Outcome State Fault Refusal :=
  match s.phase with
  | .idle => hostStep s
  | .done => hostStep s
  | .fault => hostStep s
  | .header => match s.mode with | .dec => decStep s | .enc => encStep s
  | .pixels => match s.mode with | .dec => decStep s | .enc => encStep s
  | .padding => match s.mode with | .dec => decStep s | .enc => encStep s

/-- `s` with a row of the opcode table placed where `step` fetches its next item. -/
def State.withFetchWord (s : State) (nbits w : Nat) : State :=
  placeItem (tablePosition nbits w) (tableBytes nbits w) s

end Sys2Proof.Machine
end

