-- ==== Sys2Proof/Machine/Status.lean ====
section
/-! DEFINITION. What the host may read through the status port, and when (R22, R169, R172, D1). A claim about what the block
gives back is stated in these reads, not in the raw fields behind them. -/

namespace Sys2Proof.Machine

/-- Is the pass over (R188)? In `IDLE` there has been none. -/
def Phase.over : Phase → Bool
  | .idle => false
  | .header => false
  | .pixels => false
  | .padding => false
  | .done => true
  | .fault => true

/-- `PHASE`, the one status the host may read at any time (R166, R172). -/
def State.hostPhase (s : State) : Phase := s.phase

/-- `RESULT`, "meaningful to the host only when `PHASE` is `DONE` or `FAULT`" (R22). -/
def State.hostResult (s : State) : Option Bool := if s.phase.over then some s.result else none

/-- `CAUSE`, read with `RESULT` (R172). -/
def State.hostCause (s : State) : Option Cause := if s.phase.over then some s.cause else none

/-- `WIDTH`, `HEIGHT`, `CHANNELS`, `COLORSPACE`: the header outputs of a `DEC` pass that is over (R172), where they hold a
value of the pass (R100, R169). Before the end the core gives back "nothing until terminal" (R172), and an `ENC` pass has
no header outputs. -/
def State.hostHeader (s : State) : Option (U32 × U32 × Byte × Byte) :=
  if s.phase.over ∧ s.mode = .dec ∧ s.headerValid then some (s.width, s.height, s.channels, s.colorspace) else none

end Sys2Proof.Machine
end

