-- ==== Sys2Proof/Safety.lean ====
section
/-! DEFINITION. What claims about runs are stated in: the phases between passes, a successful pass, the host's next move, and
the invariant every step keeps. -/

namespace Sys2Proof.Machine

/-- The phases in which a step of the core is enabled (R30). -/
def Phase.running : Phase → Bool
  | .idle => false
  | .header => true
  | .pixels => true
  | .padding => true
  | .done => false
  | .fault => false

/-- A `DEC` pass about to execute a chunk (R135). -/
abbrev Decoding (s : State) : Prop := s.mode = .dec ∧ s.phase = .pixels

/-- An `ENC` pass about to take a pixel (R110). -/
abbrev Encoding (s : State) : Prop := s.mode = .enc ∧ s.phase = .pixels

/-- A pass that is over: `PHASE` is `DONE` or `FAULT` (R188). -/
abbrev PassOver (s : State) : Prop := s.phase = .done ∨ s.phase = .fault

/-- "It is a *successful* pass iff `PHASE = DONE` and `RESULT = true`" (R188). A run is safe in this sense; a pass in
`FAULT` never is, and the sinks of any other pass are untrusted (R172, R194). -/
abbrev Successful (s : State) : Prop := s.phase = .done ∧ s.result = true

/-- The host's next pending move is Start, in either form (R97; the list of moves is notes/assumptions/3.md). -/
abbrev StartPending (s : State) : Prop :=
  ∃ ms, s.hostMoves = .startDec :: ms ∨ ∃ w h c cs, s.hostMoves = .startEnc w h c cs :: ms

/-- The host's next pending move binds streams (R172, R187; notes/assumptions/3.md). -/
abbrev BindingPending (s : State) : Prop :=
  ∃ bs ms, s.hostMoves = .bindDec bs :: ms ∨ s.hostMoves = .bindEnc bs :: ms

/-- What a decoder step leaves once it has produced `k` pixels equal to `p` (R142, R143, R145): the slot of `p` holds it,
the pixels are out, `PREV` is `p`, `POS` has counted them, and the pixel phase ends at the budget. -/
def afterPixels (k : Nat) (p : Pixel) (s : State) : State :=
  { s with
    hist := s.hist.set (hashPixel p).val p
    pixelSink := s.pixelSink ++ (List.replicate k (pixelBytes s.channels p)).flatten
    prev := p
    pos := s.pos + BitVec.ofNat 64 k
    phase := if s.pos + BitVec.ofNat 64 k = s.n then .padding else s.phase }

/-- What an underrun of the byte source leaves (R163): the cursor at the end of the source, the status, all else as it
was. -/
def afterByteUnderrun (s : State) : State :=
  { s with
    byteSource := { s.byteSource with pos := s.byteSource.bytes.length }
    result := false
    cause := .srcUnderrun
    phase := .fault }

/-- What holds at reset and is kept by every step: the ranges of R14 and R15, the table of R13, the status of R22 and R23
in each phase, and what the header step leaves for the phases after it. -/
structure Inv (s : State) : Prop where
  /-- "Between encoder steps its value is in 0..61" (R14). -/
  run_le : s.run.toNat ≤ 61
  /-- No run is pending outside the pixel phase, but where a fault cut it off (R14, R122, R163). -/
  run_flushed : s.phase ≠ .pixels → s.phase ≠ .fault → s.run = 0
  /-- "In a decoder pass `RUN` is not used" (R14). -/
  run_dec : s.mode = .dec → s.run = 0
  /-- The header step runs on what Start wrote (R26). -/
  fresh : s.phase = .header → s.pos = 0 ∧ s.prev = Config.prevInit
  /-- A pixel or chunk step is enabled only below the budget (R110, R135). -/
  below_budget : s.phase = .pixels → s.pos.toNat < s.n.toNat
  /-- The end marker follows the last pixel (R101). -/
  at_budget : s.phase = .padding → s.pos = s.n
  /-- `N = WIDTH * HEIGHT` (R96). -/
  budget : s.phase = .pixels ∨ s.phase = .padding → s.n.toNat = s.width.toNat * s.height.toNat
  /-- No pass gets past its header step with another channel count (R164). -/
  channels_legal : s.phase = .pixels ∨ s.phase = .padding → Config.legalChannels s.channels = true
  /-- `PREV.a = 255` for the whole of a 3-channel `ENC` pass (R12). -/
  alpha_opaque : s.mode = .enc → s.channels = 3 → s.phase.running = true → s.prev.a = 255
  /-- A slot holds (0,0,0,0) or a pixel of its own hash (R13, R139). -/
  slots : ∀ i : Fin 64, s.histRead i = Config.slotInit ∨ hashPixel (s.histRead i) = i
  /-- `RESULT` is `false` and `CAUSE` is `NONE` until a terminal step (R22, R23). -/
  status_open : s.phase ≠ .done → s.phase ≠ .fault → s.result = false ∧ s.cause = .none
  /-- The three outcomes of `DONE` (R21, R23). -/
  status_done : s.phase = .done → (s.result = true ∧ s.cause = .none) ∨
    (s.result = false ∧ s.mode = .dec ∧ (s.cause = .badMagic ∨ s.cause = .badPadding))
  /-- The two outcomes of `FAULT` (R21, R23). -/
  status_fault : s.phase = .fault → s.result = false ∧ (s.cause = .srcUnderrun ∨ s.cause = .badChannels)
  /-- The header registers of an `ENC` pass are Start's operands (R26). -/
  header_enc : s.mode = .enc → s.phase ≠ .idle → s.headerValid = true
  /-- The header registers of a `DEC` pass hold no value before its header step and after a bad magic (R26, R100). -/
  header_unread : s.mode = .dec → s.phase = .header ∨ s.cause = .badMagic → s.headerValid = false
  /-- They hold what was read from then on (R169). -/
  header_read : s.phase = .pixels ∨ s.phase = .padding ∨ s.phase = .done ∧ s.cause ≠ .badMagic ∨
    s.cause = .badChannels → s.headerValid = true
  /-- A cursor never stands past the end of its source (R24). -/
  byte_cursor : s.byteSource.pos ≤ s.byteSource.bytes.length
  pixel_cursor : s.pixelSource.pos ≤ s.pixelSource.bytes.length

end Sys2Proof.Machine
end

