-- ==== Sys2Proof/Certificates/Slice0/Obligations.lean ====
section
/-! DEFINITION. The statements for the provers, from the spec's numbered rules. A statement's next state is written out as
the record the rules give, so it says what is left unchanged as well: every field not named is as before. -/

open Sys2Proof Sys2Proof.Machine

/-! ## Encoding -/

/-- Words written out from the formats of R66, R67 and R70 to R75 (worked examples of R137 to R142 and V-D5). The two Diff
words, `0x79` and `0x64`, rest on the places of the fields that the spec decides (D4) and on notes/assumptions/7.md, as the
numbers of the magic do (G1). -/
def Obligations.WrittenOutWordsDecode : Prop :=
  decodeAt .chunk [0x0b] = .ok (.index 11) ∧
  decodeAt .chunk [0x79] = .ok (.diff 1 0 (-1)) ∧
  decodeAt .chunk [0x64] = .ok (.diff 0 (-1) (-2)) ∧
  decodeAt .chunk [0xb0, 0x24] = .ok (.luma 16 (-6) (-4)) ∧
  decodeAt .chunk [0xfd] = .ok (.run 62) ∧
  decodeAt .chunk [0xfe, 0x01, 0x02, 0x03] = .ok (.rgb 1 2 3) ∧
  decodeAt .chunk [0xff, 0xd2, 0x73, 0x3c, 0x80] = .ok (.rgba 210 115 60 128) ∧
  decodeAt .header [0x71, 0x6f, 0x69, 0x66, 1, 2, 3, 4, 0, 0, 0, 0x82, 3, 0xab] =
    .ok (.header 0x01020304 130 3 0xab) ∧
  decodeAt .marker [0, 0, 0, 0, 0, 0, 0, 1] = .ok .endMarker

/-- R69: the tests of the tag byte in their order, `0xfe`, `0xff`, then the top two bits, and what each selects; the
fields of R70 and R72 to R75 (those of Diff: `DiffFieldPositions`). -/
def Obligations.TagDispatchInOrder : Prop :=
  ∀ (t b1 b2 b3 b4 : Byte) (rest : List Byte),
    (t = 0xfe → decodeAt .chunk (t :: b1 :: b2 :: b3 :: b4 :: rest) = .ok (.rgb b1 b2 b3)) ∧
    (t = 0xff → decodeAt .chunk (t :: b1 :: b2 :: b3 :: b4 :: rest) = .ok (.rgba b1 b2 b3 b4)) ∧
    (t ≠ 0xfe → t ≠ 0xff →
      (t.toNat / 64 = 0 → decodeAt .chunk (t :: b1 :: b2 :: b3 :: b4 :: rest) = .ok (.index (t.toNat % 64))) ∧
      (t.toNat / 64 = 1 → ∃ dr dg db,
        decodeAt .chunk (t :: b1 :: b2 :: b3 :: b4 :: rest) = .ok (.diff dr dg db)) ∧
      (t.toNat / 64 = 2 → decodeAt .chunk (t :: b1 :: b2 :: b3 :: b4 :: rest) = .ok
        (.luma ((t.toNat % 64 : Nat) - 32) ((b1.toNat / 16 : Nat) - 8) ((b1.toNat % 16 : Nat) - 8))) ∧
      (t.toNat / 64 = 3 → decodeAt .chunk (t :: b1 :: b2 :: b3 :: b4 :: rest) = .ok (.run (t.toNat % 64 + 1))))

/-- The fields of a Diff chunk: red in bits 5:4, green in bits 3:2, blue in bits 1:0, each less 2 (R71). Which pair of
bits is which channel is the spec's own decision D4 (notes/assumptions/7.md). -/
def Obligations.DiffFieldPositions : Prop :=
  ∀ (t : Byte) (rest : List Byte), 0x40 ≤ t.toNat → t.toNat ≤ 0x7f →
    decodeAt .chunk (t :: rest) = .ok
      (.diff ((t.toNat / 16 % 4 : Nat) - 2) ((t.toNat / 4 % 4 : Nat) - 2) ((t.toNat % 4 : Nat) - 2))

/-- Every tag byte has a kind and a length, read from it alone (R78; the length table is R77, the spec's own inference
from R70 to R75); a chunk is rejected only for want of bytes. -/
def Obligations.EveryTagHasAKindAndALength : Prop :=
  ∀ (t : Byte) (rest : List Byte),
    (chunkLength t = if t.toNat ≤ 0x7f then 1 else if t.toNat ≤ 0xbf then 2 else if t.toNat ≤ 0xfd then 1
      else if t.toNat = 0xfe then 4 else 5) ∧
    (chunkLength t ≤ rest.length + 1 → ∃ i : Instr, decodeAt .chunk (t :: rest) = .ok i ∧ i.length = chunkLength t) ∧
    (rest.length + 1 < chunkLength t → decodeAt .chunk (t :: rest) = .error .tooShort)

/-- Decoding the bytes of a well-formed item gives it back, whatever follows it. -/
def Obligations.DecodeInvertsEncode : Prop :=
  ∀ (i : Instr) (rest : List Byte), i.wf = true → decodeAt i.position (encode i ++ rest) = .ok i

/-- The other direction: what is decoded is well formed, and its encoding is the bytes it was read from. -/
def Obligations.EncodeInvertsDecode : Prop :=
  ∀ (p : Position) (bs : List Byte) (i : Instr), decodeAt p bs = .ok i →
    i.wf = true ∧ i.position = p ∧ encode i = bs.take i.length

/-- The byte values of every chunk, as numbers (R76, R81; the places of Diff's fields are the spec's decision D4). -/
def Obligations.EncodedByteValues : Prop :=
  (∀ slot : Nat, slot < 64 → encode (.index slot) = [BitVec.ofNat 8 slot]) ∧
  (∀ dr dg db : Int, -2 ≤ dr → dr ≤ 1 → -2 ≤ dg → dg ≤ 1 → -2 ≤ db → db ≤ 1 →
    encode (.diff dr dg db) = [BitVec.ofInt 8 (0x40 + 16 * (dr + 2) + 4 * (dg + 2) + (db + 2))]) ∧
  (∀ dg drDg dbDg : Int, -32 ≤ dg → dg ≤ 31 → -8 ≤ drDg → drDg ≤ 7 → -8 ≤ dbDg → dbDg ≤ 7 →
    encode (.luma dg drDg dbDg) =
      [BitVec.ofInt 8 (0x80 + (dg + 32)), BitVec.ofInt 8 (16 * (drDg + 8) + (dbDg + 8))]) ∧
  (∀ length : Nat, 1 ≤ length → length ≤ 62 → encode (.run length) = [BitVec.ofNat 8 (0xc0 + (length - 1))]) ∧
  (∀ r g b : Byte, encode (.rgb r g b) = [0xfe, r, g, b]) ∧
  (∀ r g b a : Byte, encode (.rgba r g b a) = [0xff, r, g, b, a])

/-! ## Shared functions -/

/-- R90: the hash, its range, and its worked examples. -/
def Obligations.HistoryHashFormula : Prop :=
  (∀ p : Pixel, (hashPixel p).val = (p.r.toNat * 3 + p.g.toNat * 5 + p.b.toNat * 7 + p.a.toNat * 11) % 64) ∧
  hashPixel ⟨0, 0, 0, 0⟩ = 0 ∧ hashPixel ⟨0, 0, 0, 255⟩ = 53 ∧
  hashPixel ⟨10, 10, 10, 255⟩ = 11 ∧ hashPixel ⟨255, 255, 255, 255⟩ = 38

/-- R91 (c): the hash computed with wrap-around in 8 bits is the same. -/
def Obligations.HashInWrappingBytes : Prop :=
  ∀ p : Pixel, (hashPixel p).val = (p.r * 3 + p.g * 5 + p.b * 7 + p.a * 11).toNat % 64

/-- Addition wraps modulo 256; a difference is the signed reading of the difference modulo 256, in -128..127; and for
every `d` in that range the sum is `cur` exactly when `d` is the difference (R93, R94; that both wrap is the spec's
decision D3, notes/assumptions/6.md). -/
def Obligations.DeltasInvertWrappingSums : Prop :=
  ∀ prev cur : Byte,
    delta cur prev = (if (cur.toNat + 256 - prev.toNat) % 256 < 128 then (((cur.toNat + 256 - prev.toNat) % 256 : Nat) : Int)
      else (((cur.toNat + 256 - prev.toNat) % 256 : Nat) : Int) - 256) ∧
    -128 ≤ delta cur prev ∧ delta cur prev ≤ 127 ∧
    ∀ d : Int, ((addDelta prev d).toNat : Int) = ((prev.toNat : Int) + d) % 256 ∧
      (-128 ≤ d → d ≤ 127 → (addDelta prev d = cur ↔ d = delta cur prev))

/-- R102: which bytes a pixel is written as. -/
def Obligations.PixelOutputBytes : Prop :=
  ∀ (s : State) (p : Pixel),
    (s.channels = 3 → s.pixEmit p = { s with pixelSink := s.pixelSink ++ [p.r, p.g, p.b] }) ∧
    (s.channels = 4 → s.pixEmit p = { s with pixelSink := s.pixelSink ++ [p.r, p.g, p.b, p.a] })

/-- R13 and R50: a slot reads as the pixel last written to it; a write reaches only the slot of its pixel's hash. -/
def Obligations.HistoryReadAfterWrite : Prop :=
  ∀ (s : State) (p : Pixel) (i : Fin 64),
    (s.histWrite p).histRead i = (if hashPixel p = i then p else s.histRead i) ∧
    { s.histWrite p with hist := s.hist } = s

/-! ## What each item does in a `DEC` pass -/

/-- `Index` (R139, R143). -/
def Obligations.IndexExecutes : Prop :=
  ∀ (s : State) (slot : Nat) (h : slot < 64), Decoding s →
    exec (.index slot) s = .next (afterPixels 1 s.hist[slot] s)

/-- `Diff` (R140, R143; the wrap is the spec's decision D3). -/
def Obligations.DiffExecutes : Prop :=
  ∀ (s : State) (dr dg db : Int), Decoding s → -2 ≤ dr → dr ≤ 1 → -2 ≤ dg → dg ≤ 1 → -2 ≤ db → db ≤ 1 →
    exec (.diff dr dg db) s = .next (afterPixels 1
      ⟨BitVec.ofInt 8 (s.prev.r.toNat + dr), BitVec.ofInt 8 (s.prev.g.toNat + dg),
        BitVec.ofInt 8 (s.prev.b.toNat + db), s.prev.a⟩ s)

/-- `Luma` (R141, R143; the wrap is the spec's decision D3). -/
def Obligations.LumaExecutes : Prop :=
  ∀ (s : State) (dg drDg dbDg : Int), Decoding s → -32 ≤ dg → dg ≤ 31 → -8 ≤ drDg → drDg ≤ 7 → -8 ≤ dbDg → dbDg ≤ 7 →
    exec (.luma dg drDg dbDg) s = .next (afterPixels 1
      ⟨BitVec.ofInt 8 (s.prev.r.toNat + (drDg + dg)), BitVec.ofInt 8 (s.prev.g.toNat + dg),
        BitVec.ofInt 8 (s.prev.b.toNat + (dbDg + dg)), s.prev.a⟩ s)

/-- `Rgb` (R137, R143). -/
def Obligations.RgbExecutes : Prop :=
  ∀ (s : State) (r g b : Byte), Decoding s →
    exec (.rgb r g b) s = .next (afterPixels 1 ⟨r, g, b, s.prev.a⟩ s)

/-- `Rgba` (R138, R143). -/
def Obligations.RgbaExecutes : Prop :=
  ∀ (s : State) (r g b a : Byte), Decoding s →
    exec (.rgba r g b a) s = .next (afterPixels 1 ⟨r, g, b, a⟩ s)

/-- `Run` (R142): `PREV` once for each pixel of the length, clipped to the pixels left (R144, the spec's decision D8).
The budget is not yet reached in any pixel phase (R135, the invariant `StepKeepsInvariant`). -/
def Obligations.RunExecutes : Prop :=
  ∀ (s : State) (length : Nat), Decoding s → s.pos.toNat < s.n.toNat → 1 ≤ length → length ≤ 62 →
    exec (.run length) s = .next (afterPixels (min length (s.n.toNat - s.pos.toNat)) s.prev s)

/-- `Header` (R100): the header registers, then the budget and the phase, or `BAD_CHANNELS` (the spec's decision D6).
`headerValid` is the model's own record that the registers hold a value of the pass (notes/assumptions/5.md). -/
def Obligations.HeaderExecutes : Prop :=
  ∀ (s : State) (w h : U32) (c cs : Byte), s.mode = .dec → s.phase = .header →
    exec (.header w h c cs) s = .next
      (if c = 3 ∨ c = 4 then
        { s with
          width := w, height := h, channels := c, colorspace := cs, headerValid := true
          n := BitVec.ofNat 64 (w.toNat * h.toNat)
          phase := if w.toNat * h.toNat = 0 then .padding else .pixels }
      else
        { s with
          width := w, height := h, channels := c, colorspace := cs, headerValid := true
          result := false, cause := .badChannels, phase := .fault })

/-- `End` (R101). -/
def Obligations.EndExecutes : Prop :=
  ∀ s : State, s.mode = .dec → s.phase = .padding →
    exec .endMarker s = .next { s with result := true, phase := .done }

/-! ## What each item does in an `ENC` pass -/

/-- The emission of a chunk other than Run: its bytes, nothing else. That `exec` appends the bytes of any chunk, whatever
the pixel, is the model's choice (notes/assumptions/4.md): the rules R115 and R117 to R120 give these bytes for the one
chunk that R123 selects, and what the block does with a pixel is `EncoderRunPixelStep`, `EncoderIndexPixelStep` and
`EncoderMissPixelStep`. The bytes of a Diff rest on the spec's decision D4. -/
def Obligations.ChunkEmissionAppendsItsBytes : Prop :=
  ∀ (i : Instr) (s : State), Encoding s → i.wf = true → i.position = .chunk → (∀ n, i ≠ .run n) →
    exec i s = .next { s with byteSink := s.byteSink ++ encode i }

/-- The emission of a Run chunk of `RUN` pixels (R114). That `exec` of it is the emission alone, at any pixel, is the
model's choice (notes/assumptions/4.md); when the encoder emits one is `EncoderRunPixelStep` (R112, R113). -/
def Obligations.RunEmissionClearsTheCounter : Prop :=
  ∀ s : State, Encoding s → 1 ≤ s.run.toNat → s.run.toNat ≤ 62 →
    exec (.run s.run.toNat) s = .next
      { s with byteSink := s.byteSink ++ [BitVec.ofNat 8 (0xc0 + (s.run.toNat - 1))], run := 0 }

/-- An item has no step outside its phase (R30), and operands out of range are no item (R81); that `exec` then refuses
by name is the model's choice (notes/assumptions/4.md). In an `ENC` pass so are a `Header` whose operands are not the header
registers, which R98 reads them from, and a `Run` whose length is not `RUN`, which R114 reads it from. -/
def Obligations.ItemsRefusedOutsideTheirStep : Prop :=
  ∀ (i : Instr) (s : State),
    (i.wf = false → exec i s = .refused .illFormed) ∧
    (i.wf = true → s.phase ≠ phaseOf i.position → exec i s = .refused .notEnabled) ∧
    (s.mode = .enc → s.phase = .header → ∀ (w h : U32) (c cs : Byte),
      ¬(w = s.width ∧ h = s.height ∧ c = s.channels ∧ cs = s.colorspace) →
      exec (.header w h c cs) s = .refused .notEnabled) ∧
    (Encoding s → ∀ length : Nat, 1 ≤ length → length ≤ 62 → length ≠ s.run.toNat →
      exec (.run length) s = .refused .notEnabled)

/-! ## Steps of a `DEC` pass -/

/-- A step runs the item its bytes decode to, the cursor moved past it. -/
def Obligations.StepRunsTheDecodedItem : Prop :=
  ∀ (s : State) (i : Instr), s.mode = .dec → s.phase = phaseOf i.position →
    decodeAt i.position (s.byteSource.bytes.drop s.byteSource.pos) = .ok i →
    step s = exec i { s with byteSource := { s.byteSource with pos := s.byteSource.pos + i.length } }

/-- The decoder header step on each kind of source (R100, R161): a match with a legal channel count, a match without
one (`BAD_CHANNELS`, the spec's decision D6), four other bytes (`BAD_MAGIC`, of which four are consumed by its
decision D9), and a source that is too short (its decision D7). `headerValid` is the model's own
(notes/assumptions/5.md). -/
def Obligations.DecoderHeaderStep : Prop :=
  ∀ s : State, s.mode = .dec → s.phase = .header → s.byteSource.pos ≤ s.byteSource.bytes.length →
    (∀ w0 w1 w2 w3 h0 h1 h2 h3 c cs rest,
      s.byteSource.rest = 0x71 :: 0x6f :: 0x69 :: 0x66 :: w0 :: w1 :: w2 :: w3 :: h0 :: h1 :: h2 :: h3 :: c :: cs :: rest →
      ∀ w h : U32,
        w.toNat = w0.toNat * 2 ^ 24 + w1.toNat * 2 ^ 16 + w2.toNat * 2 ^ 8 + w3.toNat →
        h.toNat = h0.toNat * 2 ^ 24 + h1.toNat * 2 ^ 16 + h2.toNat * 2 ^ 8 + h3.toNat →
        step s = .next
          (if c = 3 ∨ c = 4 then
            { s.advance 14 with
              width := w, height := h, channels := c, colorspace := cs, headerValid := true
              n := BitVec.ofNat 64 (w.toNat * h.toNat)
              phase := if w.toNat * h.toNat = 0 then .padding else .pixels }
          else
            { s.advance 14 with
              width := w, height := h, channels := c, colorspace := cs, headerValid := true
              result := false, cause := .badChannels, phase := .fault })) ∧
    (∀ m0 m1 m2 m3 rest, s.byteSource.rest = m0 :: m1 :: m2 :: m3 :: rest → [m0, m1, m2, m3] ≠ [0x71, 0x6f, 0x69, 0x66] →
      step s = .next { s.advance 4 with result := false, cause := .badMagic, phase := .done }) ∧
    (∀ rest, s.byteSource.rest = 0x71 :: 0x6f :: 0x69 :: 0x66 :: rest → rest.length < 10 →
      step s = .next (afterByteUnderrun s)) ∧
    (s.byteSource.rest.length < 4 → step s = .next (afterByteUnderrun s))

/-- R139: a step on an Index chunk. -/
def Obligations.IndexChunkStep : Prop :=
  ∀ (s : State) (t : Byte) (rest : List Byte) (h : t.toNat < 64), Decoding s → s.byteSource.rest = t :: rest →
    step s = .next (afterPixels 1 s.hist[t.toNat] (s.advance 1))

/-- A step on a Diff chunk (R140; the places of the fields and the wrap are the spec's decisions D4 and D3). -/
def Obligations.DiffChunkStep : Prop :=
  ∀ (s : State) (t : Byte) (rest : List Byte), Decoding s → s.byteSource.rest = t :: rest →
    0x40 ≤ t.toNat → t.toNat ≤ 0x7f →
    step s = .next (afterPixels 1
      ⟨BitVec.ofInt 8 (s.prev.r.toNat + ((t.toNat / 16 % 4 : Nat) - 2)),
        BitVec.ofInt 8 (s.prev.g.toNat + ((t.toNat / 4 % 4 : Nat) - 2)),
        BitVec.ofInt 8 (s.prev.b.toNat + ((t.toNat % 4 : Nat) - 2)), s.prev.a⟩ (s.advance 1))

/-- A step on a Luma chunk, whole or cut short (R141; the wrap and the fault are the spec's decisions D3 and D7). -/
def Obligations.LumaChunkStep : Prop :=
  ∀ (s : State) (t : Byte), Decoding s → s.byteSource.pos ≤ s.byteSource.bytes.length →
    0x80 ≤ t.toNat → t.toNat ≤ 0xbf →
    (∀ (u : Byte) (rest : List Byte), s.byteSource.rest = t :: u :: rest →
      step s = .next (afterPixels 1
        ⟨BitVec.ofInt 8 (s.prev.r.toNat + (((u.toNat / 16 : Nat) - 8) + ((t.toNat % 64 : Nat) - 32))),
          BitVec.ofInt 8 (s.prev.g.toNat + ((t.toNat % 64 : Nat) - 32)),
          BitVec.ofInt 8 (s.prev.b.toNat + (((u.toNat % 16 : Nat) - 8) + ((t.toNat % 64 : Nat) - 32))),
          s.prev.a⟩ (s.advance 2))) ∧
    (s.byteSource.rest = [t] → step s = .next (afterByteUnderrun s))

/-- A step on an Rgb or an Rgba chunk, whole or cut short (R137, R138; the fault is the spec's decision D7). -/
def Obligations.LiteralChunkStep : Prop :=
  ∀ s : State, Decoding s → s.byteSource.pos ≤ s.byteSource.bytes.length →
    (∀ (r g b : Byte) (rest : List Byte), s.byteSource.rest = 0xfe :: r :: g :: b :: rest →
      step s = .next (afterPixels 1 ⟨r, g, b, s.prev.a⟩ (s.advance 4))) ∧
    (∀ rest : List Byte, s.byteSource.rest = 0xfe :: rest → rest.length < 3 → step s = .next (afterByteUnderrun s)) ∧
    (∀ (r g b a : Byte) (rest : List Byte), s.byteSource.rest = 0xff :: r :: g :: b :: a :: rest →
      step s = .next (afterPixels 1 ⟨r, g, b, a⟩ (s.advance 5))) ∧
    (∀ rest : List Byte, s.byteSource.rest = 0xff :: rest → rest.length < 4 → step s = .next (afterByteUnderrun s))

/-- A step on a Run chunk (R142, R145; the clip is R144, the spec's decision D8). -/
def Obligations.RunChunkStep : Prop :=
  ∀ (s : State) (t : Byte) (rest : List Byte), Decoding s → s.pos.toNat < s.n.toNat →
    s.byteSource.rest = t :: rest → 0xc0 ≤ t.toNat → t.toNat ≤ 0xfd →
    step s = .next (afterPixels (min (t.toNat % 64 + 1) (s.n.toNat - s.pos.toNat)) s.prev (s.advance 1))

/-- The decoder padding step (R101, R162): all eight bytes are read, then compared (the spec's decision D10). -/
def Obligations.DecoderPaddingStep : Prop :=
  ∀ s : State, s.mode = .dec → s.phase = .padding → s.byteSource.pos ≤ s.byteSource.bytes.length →
    (s.byteSource.rest.length < 8 → step s = .next (afterByteUnderrun s)) ∧
    (8 ≤ s.byteSource.rest.length →
      step s = .next
        (if s.byteSource.rest.take 8 = [0, 0, 0, 0, 0, 0, 0, 1] then
          { s.advance 8 with result := true, phase := .done }
        else { s.advance 8 with result := false, cause := .badPadding, phase := .done }))

/-- The source exhausted in each step that reads: the step is abandoned whole (R48, R163, the spec's decision D7). -/
def Obligations.UnderrunAbandonsTheStep : Prop :=
  ∀ s : State,
    (s.byteSource.pos ≤ s.byteSource.bytes.length → s.mode = .dec →
      (s.phase = .header ∧ s.byteSource.rest.length < 4) ∨
      (s.phase = .header ∧ s.byteSource.rest.take 4 = [0x71, 0x6f, 0x69, 0x66] ∧ s.byteSource.rest.length < 14) ∨
      (s.phase = .pixels ∧ s.byteSource.rest = []) ∨
      (s.phase = .pixels ∧ ∃ t rest, s.byteSource.rest = t :: rest ∧ rest.length + 1 < chunkLength t) ∨
      (s.phase = .padding ∧ s.byteSource.rest.length < 8) →
      step s = .next (afterByteUnderrun s)) ∧
    (s.pixelSource.pos ≤ s.pixelSource.bytes.length → Encoding s → Config.legalChannels s.channels = true →
      s.pixelSource.rest.length < s.channels.toNat →
      step s = .next { s with
        pixelSource := { s.pixelSource with pos := s.pixelSource.bytes.length }
        result := false
        cause := .srcUnderrun
        phase := .fault })

/-! ## Steps of an `ENC` pass -/

/-- The encoder header step (R98; `BAD_CHANNELS` is the spec's decision D6). -/
def Obligations.EncoderHeaderStep : Prop :=
  ∀ s : State, s.mode = .enc → s.phase = .header →
    step s = .next
      (if s.channels = 3 ∨ s.channels = 4 then
        { s with
          byteSink := s.byteSink ++ [0x71, 0x6f, 0x69, 0x66] ++ u32Bytes s.width ++ u32Bytes s.height ++
            [s.channels, s.colorspace]
          n := BitVec.ofNat 64 (s.width.toNat * s.height.toNat)
          phase := if s.width.toNat * s.height.toNat = 0 then .padding else .pixels }
      else { s with result := false, cause := .badChannels, phase := .fault })

/-- R99: the encoder end-marker step. -/
def Obligations.EncoderEndMarkerStep : Prop :=
  ∀ s : State, s.mode = .enc → s.phase = .padding →
    step s = .next
      { s with byteSink := s.byteSink ++ [0, 0, 0, 0, 0, 0, 0, 1], result := true, phase := .done }

/-- The pixel the encoder fetches (R111), and what the fetch moves. -/
def Obligations.EncoderPixelFetch : Prop :=
  ∀ (s : State) (r g b a : Byte) (rest : List Byte),
    (s.channels = 4 → s.pixelSource.rest = r :: g :: b :: a :: rest →
      nextPixel s = some ⟨r, g, b, a⟩ ∧ fetchPixel s =
        { s with pixelSource := { s.pixelSource with pos := s.pixelSource.pos + 4 }, pos := s.pos + 1 }) ∧
    (s.channels = 3 → s.pixelSource.rest = r :: g :: b :: rest →
      nextPixel s = some ⟨r, g, b, s.prev.a⟩ ∧ fetchPixel s =
        { s with pixelSource := { s.pixelSource with pos := s.pixelSource.pos + 3 }, pos := s.pos + 1 })

/-- R112: a pixel equal to `PREV` is counted; at 62, or at the last pixel, one Run chunk is written. -/
def Obligations.EncoderRunPixelStep : Prop :=
  ∀ s : State, Encoding s → s.run.toNat ≤ 61 → nextPixel s = some s.prev →
    step s = .next
      (if s.run.toNat + 1 = 62 ∨ s.pos + 1 = s.n then
        { fetchPixel s with
          byteSink := s.byteSink ++ [BitVec.ofNat 8 (0xc0 + s.run.toNat)]
          run := 0
          phase := if s.pos + 1 = s.n then .padding else .pixels }
      else { fetchPixel s with run := s.run + 1 })

/-- R115: a pixel that differs from `PREV` and hits the table: the pending run is flushed (R113), then the Index
chunk; the table is not rewritten. -/
def Obligations.EncoderIndexPixelStep : Prop :=
  ∀ (s : State) (cur : Pixel), Encoding s → nextPixel s = some cur → cur ≠ s.prev → s.histRead (hashPixel cur) = cur →
    step s = .next { fetchPixel s with
      byteSink := s.byteSink ++ (if s.run = 0 then [] else [BitVec.ofNat 8 (0xc0 + (s.run.toNat - 1))]) ++
        [BitVec.ofNat 8 (hashPixel cur).val]
      run := 0
      prev := cur
      phase := if s.pos + 1 = s.n then .padding else .pixels }

/-- A pixel that differs from `PREV` and misses the table: the pending run is flushed, the slot is
written, and the first of Diff, Luma, Rgb (alpha unchanged) or Rgba (alpha changed) that applies is emitted
(R113, R116 to R123; wrapped differences and the places of Diff's fields are the spec's decisions D3 and D4). -/
def Obligations.EncoderMissPixelStep : Prop :=
  ∀ (s : State) (cur : Pixel), Encoding s → nextPixel s = some cur → cur ≠ s.prev → s.histRead (hashPixel cur) ≠ cur →
    ∀ dr dg db : Int,
    dr = delta cur.r s.prev.r → dg = delta cur.g s.prev.g → db = delta cur.b s.prev.b →
    step s = .next { fetchPixel s with
      byteSink := s.byteSink ++ (if s.run = 0 then [] else [BitVec.ofNat 8 (0xc0 + (s.run.toNat - 1))]) ++
        (if cur.a = s.prev.a then
          if -2 ≤ dr ∧ dr ≤ 1 ∧ -2 ≤ dg ∧ dg ≤ 1 ∧ -2 ≤ db ∧ db ≤ 1 then
            [BitVec.ofInt 8 (0x40 + 16 * (dr + 2) + 4 * (dg + 2) + (db + 2))]
          else if -32 ≤ dg ∧ dg ≤ 31 ∧ -8 ≤ dr - dg ∧ dr - dg ≤ 7 ∧ -8 ≤ db - dg ∧ db - dg ≤ 7 then
            [BitVec.ofInt 8 (0x80 + (dg + 32)), BitVec.ofInt 8 (16 * (dr - dg + 8) + (db - dg + 8))]
          else [0xfe, cur.r, cur.g, cur.b]
        else [0xff, cur.r, cur.g, cur.b, cur.a])
      run := 0
      hist := s.hist.set (hashPixel cur).val cur
      prev := cur
      phase := if s.pos + 1 = s.n then .padding else .pixels }

/-- R125 (a) and (c), the spec's own inferences: in a 3-channel pass every fetched pixel has the alpha of `PREV`, 255;
after a pixel that did not continue a run the slot of `PREV` holds `PREV`. -/
def Obligations.EncoderConsequences : Prop :=
  ∀ (s t : State) (cur : Pixel), Inv s → Encoding s → nextPixel s = some cur → step s = .next t →
    (s.channels = 3 → cur.a = 255 ∧ s.prev.a = 255) ∧
    (cur ≠ s.prev → t.histRead (hashPixel t.prev) = t.prev)

/-! ## Start and reset -/

/-- Hardware reset (R27, the spec's decision D12); that the machine then waits for its host is notes/assumptions/3.md.
-/
def Obligations.HardwareReset : Prop :=
  State.reset.phase = .idle ∧ State.reset.result = false ∧ State.reset.cause = .none ∧
  step State.reset = .fault .awaitingHost

/-- Start gives every piece of state its value, and reads and writes no stream (R26, R97, the spec's decisions D12 and
D13). Taking it from `hostMoves` and `headerValid` are the model's own (notes/assumptions/3.md and 5.md), and so is
that `Start(DEC)` leaves the header registers and `N` as they were, where R26 gives them no value. -/
def Obligations.StartInitialisesThePass : Prop :=
  ∀ s : State, s.phase.running = false → ∀ ms : List HostMove,
    (∀ (w h : U32) (c cs : Byte), s.hostMoves = .startEnc w h c cs :: ms →
      step s = .next { s with
        prev := ⟨0, 0, 0, 255⟩, hist := Vector.replicate 64 ⟨0, 0, 0, 0⟩, run := 0, pos := 0, mode := .enc
        width := w, height := h, channels := c, colorspace := cs
        phase := .header, result := false, cause := .none, headerValid := true, hostMoves := ms }) ∧
    (s.hostMoves = .startDec :: ms →
      step s = .next { s with
        prev := ⟨0, 0, 0, 255⟩, hist := Vector.replicate 64 ⟨0, 0, 0, 0⟩, run := 0, pos := 0, mode := .dec
        phase := .header, result := false, cause := .none, headerValid := false, hostMoves := ms })

/-- R30: between passes only the host moves; the model's machine is stuck until it does. The list of moves and what a binding
writes are the model's (notes/assumptions/3.md): a fresh source of the mode, its cursor at the first byte, and an empty sink
of the mode, nothing else. What the two forms of Start write is `StartInitialisesThePass`. -/
def Obligations.OnlyTheHostMovesBetweenPasses : Prop :=
  ∀ s : State, s.phase.running = false →
    (s.hostMoves = [] → step s = .fault .awaitingHost) ∧
    (∀ m ms, s.hostMoves = m :: ms → step s = .next (hostMove m { s with hostMoves := ms })) ∧
    (∀ stream ms, s.hostMoves = .bindDec stream :: ms →
      step s = .next { s with byteSource := ⟨stream, 0⟩, pixelSink := [], hostMoves := ms }) ∧
    (∀ pixels ms, s.hostMoves = .bindEnc pixels :: ms →
      step s = .next { s with pixelSource := ⟨pixels, 0⟩, byteSink := [], hostMoves := ms })

/-- R25: two machines with the same streams and the same Start, whatever they did before, are the same machine once the
header step has gone through. The list of moves Start is taken from is notes/assumptions/3.md. -/
def Obligations.NothingCrossesAPassBoundary : Prop :=
  ∀ (s1 s2 t : State), s1.phase.running = false → s2.phase.running = false →
    s1.byteSource = s2.byteSource → s1.pixelSource = s2.pixelSource →
    s1.byteSink = s2.byteSink → s1.pixelSink = s2.pixelSink → s1.hostMoves = s2.hostMoves →
    StartPending s1 →
    core.run 2 s1 = .next t → t.phase.running = true → core.run 2 s2 = .next t

/-! ## The whole machine -/

/-- The invariant of `Inv` holds at reset; where it speaks of a register the spec gives no reset value it rests on the
model's choice (notes/assumptions/1.md). -/
def Obligations.ResetMeetsInvariant : Prop := Inv State.reset

/-- Every step keeps the invariant. Three parts of `Inv` are not the spec's plain words: `run_flushed` excepts `FAULT`, where
R14's own derived sentence does not and R163 keeps `RUN` (notes/assumptions/16.md); `header_enc`, `header_unread` and
`header_read` speak of the model's own `headerValid` (notes/assumptions/5.md); the two cursor clauses hold across host moves
because a binding puts the cursor at 0 (notes/assumptions/3.md). -/
def Obligations.StepKeepsInvariant : Prop :=
  ∀ s t : State, Inv s → step s = .next t → Inv t

/-- R21: the transitions of `PHASE`. Out of `IDLE`, `DONE` and `FAULT` only a pending Start leads, to `HEADER`; that a pending
binding is a step of its own, which leaves `PHASE`, is the model's choice (notes/assumptions/3.md). -/
def Obligations.PhaseTransitions : Prop :=
  ∀ s t : State, Inv s → step s = .next t →
    match s.phase with
    | .idle => (StartPending s ∧ t.phase = .header) ∨ (BindingPending s ∧ t.phase = .idle)
    | .done => (StartPending s ∧ t.phase = .header) ∨ (BindingPending s ∧ t.phase = .done)
    | .fault => (StartPending s ∧ t.phase = .header) ∨ (BindingPending s ∧ t.phase = .fault)
    | .header => (t.phase = .pixels ∧ t.n ≠ 0) ∨ (t.phase = .padding ∧ t.n = 0) ∨
        (t.phase = .done ∧ t.cause = .badMagic) ∨ t.phase = .fault
    | .pixels => (t.phase = .pixels ∧ t.pos.toNat < t.n.toNat) ∨ (t.phase = .padding ∧ t.pos = t.n) ∨ t.phase = .fault
    | .padding => t.phase = .done ∨ t.phase = .fault

/-- No step is refused (R30, R78): a step answers a next state, or the machine is between passes and waits for its host; that
it then stops by the fault `awaitingHost` is the model's choice (notes/assumptions/3.md). -/
def Obligations.EveryStepHasAMeaning : Prop :=
  ∀ s : State, (∃ t, step s = .next t) ∨
    (s.phase.running = false ∧ s.hostMoves = [] ∧ step s = .fault .awaitingHost)

/-- A running pass never changes its mode (R16); past the header step, and throughout an `ENC` pass, it never changes the
header registers, and past the header step not the budget (R31). That it leaves the host's pending moves, a list of the
model's own, is notes/assumptions/3.md. -/
def Obligations.ModeAndHeaderFixedDuringAPass : Prop :=
  ∀ s t : State, s.phase.running = true → step s = .next t →
    t.mode = s.mode ∧ t.hostMoves = s.hostMoves ∧
    (s.phase ≠ .header ∨ s.mode = .enc →
      t.width = s.width ∧ t.height = s.height ∧ t.channels = s.channels ∧ t.colorspace = s.colorspace) ∧
    (s.phase ≠ .header → t.n = s.n)

/-- R42, R47 and R58: no step of a pass changes a byte of a source, seeks backward, or changes a byte it has written; a
pass touches only the source and the sink of its own mode. -/
def Obligations.StreamsOnlyGoForward : Prop :=
  ∀ s t : State, s.phase.running = true → step s = .next t →
    t.byteSource.bytes = s.byteSource.bytes ∧ t.pixelSource.bytes = s.pixelSource.bytes ∧
    s.byteSource.pos ≤ t.byteSource.pos ∧ s.pixelSource.pos ≤ t.pixelSource.pos ∧
    (∃ out, t.byteSink = s.byteSink ++ out) ∧ (∃ out, t.pixelSink = s.pixelSink ++ out) ∧
    (s.mode = .enc → t.byteSource = s.byteSource ∧ t.pixelSink = s.pixelSink) ∧
    (s.mode = .dec → t.pixelSource = s.pixelSource ∧ t.byteSink = s.byteSink)

/-- R15, R144 and R49: a chunk step that does not fault produces at least one pixel, never more than the budget, and
writes `CHANNELS` bytes for each; a faulting one produces none. That a Run never passes the budget is the spec's decision D8,
that a faulting step produces nothing its decision D7. -/
def Obligations.ChunkStepOutputMatchesPosition : Prop :=
  ∀ s t : State, Inv s → Decoding s → step s = .next t →
    (t.phase ≠ .fault → s.pos.toNat < t.pos.toNat ∧ t.pos.toNat ≤ s.n.toNat ∧
      t.pixelSink.length = s.pixelSink.length + (t.pos.toNat - s.pos.toNat) * s.channels.toNat) ∧
    (t.phase = .fault → t.pos = s.pos ∧ t.pixelSink = s.pixelSink)

/-- `CHANNELS` affects a decoder chunk step in the pixel output only (R148, the spec's decision D11). -/
def Obligations.ChannelsOnlyAffectOutput : Prop :=
  ∀ (s t : State) (c : Byte), Decoding s → step s = .next t →
    ∃ out, step { s with channels := c } = .next { t with channels := c, pixelSink := out }

/-- R192: after an initial Run of one pixel the decoder's slot 53 holds (0,0,0,255), and `Index` of it gives that pixel;
the encoder that codes such a pixel writes no slot. -/
def Obligations.InitialRunAsymmetry : Prop :=
  ∀ s : State, s.phase = .pixels → s.prev = ⟨0, 0, 0, 255⟩ → s.hist = Vector.replicate 64 ⟨0, 0, 0, 0⟩ →
    s.pos.toNat + 1 < s.n.toNat →
    (s.mode = .dec → ∃ t u, exec (.run 1) s = .next t ∧ exec (.index 53) t = .next u ∧ u.prev = ⟨0, 0, 0, 255⟩ ∧
      t.hist = s.hist.set 53 ⟨0, 0, 0, 255⟩) ∧
    (s.mode = .enc → nextPixel s = some ⟨0, 0, 0, 255⟩ → ∃ t, step s = .next t ∧ t.hist = s.hist)

/-- What the host may read, and when (R22, R172): `PHASE` always; `RESULT` and `CAUSE` once the pass is over, and "nothing until
terminal"; header outputs of a `DEC` pass only, where the model's own `headerValid` says they hold a value of the pass
(notes/assumptions/5.md). -/
def Obligations.HostReads : Prop :=
  ∀ s : State,
    s.hostPhase = s.phase ∧
    (PassOver s → s.hostResult = some s.result ∧ s.hostCause = some s.cause) ∧
    (¬PassOver s → s.hostResult = none ∧ s.hostCause = none ∧ s.hostHeader = none) ∧
    (s.mode = .enc → s.hostHeader = none) ∧
    (PassOver s → s.mode = .dec → s.headerValid = true →
      s.hostHeader = some (s.width, s.height, s.channels, s.colorspace)) ∧
    (s.headerValid = false → s.hostHeader = none)

/-- The header outputs of a `DEC` pass after the step that ends it, for each outcome (R169): a header step that fails gives
none but for `BAD_CHANNELS`, which gives what was read; every later end gives what the header step read. The outcomes
`BAD_CHANNELS` and `SRC_UNDERRUN` are the spec's decisions D6 and D7. -/
def Obligations.HeaderOutputsOfEachOutcome : Prop :=
  ∀ s t : State, Inv s → s.mode = .dec → s.phase.running = true → step s = .next t →
    (t.phase.running = true → t.hostHeader = none) ∧
    (s.phase = .header → PassOver t →
      t.hostHeader = if t.cause = .badChannels then some (t.width, t.height, t.channels, t.colorspace) else none) ∧
    (s.phase ≠ .header → PassOver t → t.hostHeader = some (s.width, s.height, s.channels, s.colorspace))

/-- A pass always ends (R188, the spec's own inference), and past its header within one step for each pixel left and
one for the end marker. -/
def Obligations.EveryPassEnds : Prop :=
  ∀ s : State, Inv s → s.phase.running = true →
    ∃ k t, core.run k s = .next t ∧ PassOver t ∧ (s.phase ≠ .header → k ≤ s.n.toNat - s.pos.toNat + 1)

/-- R124, R49 and R65: an `ENC` pass with a legal channel count and a long enough pixel source succeeds after one header
step, `N` pixel steps and one end-marker step (R198); it has read `N * CHANNELS` bytes, and written a header, a sequence
of well-formed chunks of at most `N * (CHANNELS + 1)` bytes, and the end marker. -/
def Obligations.EncoderPassSucceeds : Prop :=
  ∀ s : State, Inv s → s.mode = .enc → s.phase = .header → Config.legalChannels s.channels = true →
    s.width.toNat * s.height.toNat * s.channels.toNat ≤ s.pixelSource.rest.length →
    ∃ (t : State) (chunks : List Instr), core.run (s.width.toNat * s.height.toNat + 2) s = .next t ∧
      Successful t ∧ t.cause = .none ∧
      t.pixelSource.pos = s.pixelSource.pos + s.width.toNat * s.height.toNat * s.channels.toNat ∧
      (∀ i ∈ chunks, i.wf = true ∧ i.position = .chunk) ∧
      t.byteSink = s.byteSink ++ encode (.header s.width s.height s.channels s.colorspace) ++
        (chunks.map encode).flatten ++ encode .endMarker ∧
      (chunks.map encode).flatten.length ≤ s.width.toNat * s.height.toNat * (s.channels.toNat + 1)

/-- For any image (R146, the spec's own inference from a property the source states), the stream an `ENC` pass writes
is one a `DEC` pass succeeds on, giving back the pixel bytes and the header outputs; whatever either machine did
before. The moves that bind the streams and start the passes are notes/assumptions/3.md. -/
def Obligations.DecodeInvertsEncodeOnImages : Prop :=
  ∀ (s1 s2 : State) (w h : U32) (c cs : Byte) (image : List Byte),
    s1.phase.running = false → s2.phase.running = false → Config.legalChannels c = true →
    image.length = w.toNat * h.toNat * c.toNat →
    ∃ k1 t1, core.run k1 { s1 with hostMoves := [.bindEnc image, .startEnc w h c cs] } = .next t1 ∧ Successful t1 ∧
      ∃ k2 t2, core.run k2 { s2 with hostMoves := [.bindDec t1.byteSink, .startDec] } = .next t2 ∧ Successful t2 ∧
        t2.pixelSink = image ∧ t2.hostHeader = some (w, h, c, cs)
end

