-- ==== Sys2Proof/Laws/Decode.lean ====
section
/-! SUPPORT. What the decoder can answer: the shape of an accepted item and of each rejection. -/

namespace Sys2Proof

@[simp] theorem u32Bytes_length (v : U32) : (u32Bytes v).length = 4 := rfl

/-- An accepted chunk is a chunk, and its bytes were there. -/
theorem decodeChunk_ok {bs : List Byte} {i : Instr} (h : decodeChunk bs = .ok i) :
    i.position = .chunk ∧ i.length ≤ bs.length := by
  unfold decodeChunk at h
  repeat' split at h
  all_goals cases h
  all_goals simp [Instr.position, Instr.length]

/-- A chunk is rejected only for want of bytes (R78). -/
theorem decodeChunk_error {bs : List Byte} {r : Reject} (h : decodeChunk bs = .error r) : r = .tooShort := by
  unfold decodeChunk at h
  repeat' split at h
  all_goals cases h
  all_goals rfl

theorem decodeHeader_ok {bs : List Byte} {i : Instr} (h : decodeHeader bs = .ok i) :
    i.position = .header ∧ i.length ≤ bs.length := by
  unfold decodeHeader at h
  repeat' split at h
  all_goals cases h
  simp [Instr.position, Instr.length]

/-- A header is rejected for want of bytes or for its magic, which needs four bytes (R167). -/
theorem decodeHeader_error {bs : List Byte} {r : Reject} (h : decodeHeader bs = .error r) :
    r = .tooShort ∨ (r = .badMagic ∧ 4 ≤ bs.length) := by
  unfold decodeHeader at h
  repeat' split at h
  all_goals cases h
  all_goals simp

theorem decodeMarker_ok {bs : List Byte} {i : Instr} (h : decodeMarker bs = .ok i) :
    i = .endMarker ∧ i.length ≤ bs.length := by
  unfold decodeMarker at h
  repeat' split at h
  all_goals cases h
  refine ⟨rfl, ?_⟩
  simp only [Instr.length]
  omega

theorem decodeMarker_error {bs : List Byte} {r : Reject} (h : decodeMarker bs = .error r) :
    r = .tooShort ∨ (r = .badPadding ∧ 8 ≤ bs.length) := by
  unfold decodeMarker at h
  repeat' split at h
  all_goals cases h
  · exact .inl rfl
  · exact .inr ⟨rfl, by omega⟩

/-- An accepted item stands in its own position and its bytes were there. -/
theorem decodeAt_ok {p : Position} {bs : List Byte} {i : Instr} (h : decodeAt p bs = .ok i) :
    i.position = p ∧ i.length ≤ bs.length := by
  cases p with
  | header => exact decodeHeader_ok h
  | chunk => exact decodeChunk_ok h
  | marker =>
    obtain ⟨rfl, hl⟩ := decodeMarker_ok h
    exact ⟨rfl, hl⟩

end Sys2Proof
end

