-- ==== Sys2Proof/Laws/State.lean ====
section
/-! SUPPORT. One lemma for each field of State under each shared update, true by definition. -/

namespace Sys2Proof.Machine

@[simp] theorem histWrite_prev (s : State) (p : Pixel) : (s.histWrite p).prev = s.prev := rfl
@[simp] theorem histWrite_hist (s : State) (p : Pixel) : (s.histWrite p).hist = s.hist.set (hashPixel p).val p := rfl
@[simp] theorem histWrite_run (s : State) (p : Pixel) : (s.histWrite p).run = s.run := rfl
@[simp] theorem histWrite_pos (s : State) (p : Pixel) : (s.histWrite p).pos = s.pos := rfl
@[simp] theorem histWrite_n (s : State) (p : Pixel) : (s.histWrite p).n = s.n := rfl
@[simp] theorem histWrite_mode (s : State) (p : Pixel) : (s.histWrite p).mode = s.mode := rfl
@[simp] theorem histWrite_width (s : State) (p : Pixel) : (s.histWrite p).width = s.width := rfl
@[simp] theorem histWrite_height (s : State) (p : Pixel) : (s.histWrite p).height = s.height := rfl
@[simp] theorem histWrite_channels (s : State) (p : Pixel) : (s.histWrite p).channels = s.channels := rfl
@[simp] theorem histWrite_colorspace (s : State) (p : Pixel) : (s.histWrite p).colorspace = s.colorspace := rfl
@[simp] theorem histWrite_phase (s : State) (p : Pixel) : (s.histWrite p).phase = s.phase := rfl
@[simp] theorem histWrite_result (s : State) (p : Pixel) : (s.histWrite p).result = s.result := rfl
@[simp] theorem histWrite_cause (s : State) (p : Pixel) : (s.histWrite p).cause = s.cause := rfl
@[simp] theorem histWrite_byteSource (s : State) (p : Pixel) : (s.histWrite p).byteSource = s.byteSource := rfl
@[simp] theorem histWrite_pixelSource (s : State) (p : Pixel) : (s.histWrite p).pixelSource = s.pixelSource := rfl
@[simp] theorem histWrite_byteSink (s : State) (p : Pixel) : (s.histWrite p).byteSink = s.byteSink := rfl
@[simp] theorem histWrite_pixelSink (s : State) (p : Pixel) : (s.histWrite p).pixelSink = s.pixelSink := rfl
@[simp] theorem histWrite_headerValid (s : State) (p : Pixel) : (s.histWrite p).headerValid = s.headerValid := rfl
@[simp] theorem histWrite_hostMoves (s : State) (p : Pixel) : (s.histWrite p).hostMoves = s.hostMoves := rfl

@[simp] theorem advance_prev (s : State) (k : Nat) : (s.advance k).prev = s.prev := rfl
@[simp] theorem advance_hist (s : State) (k : Nat) : (s.advance k).hist = s.hist := rfl
@[simp] theorem advance_run (s : State) (k : Nat) : (s.advance k).run = s.run := rfl
@[simp] theorem advance_pos (s : State) (k : Nat) : (s.advance k).pos = s.pos := rfl
@[simp] theorem advance_n (s : State) (k : Nat) : (s.advance k).n = s.n := rfl
@[simp] theorem advance_mode (s : State) (k : Nat) : (s.advance k).mode = s.mode := rfl
@[simp] theorem advance_width (s : State) (k : Nat) : (s.advance k).width = s.width := rfl
@[simp] theorem advance_height (s : State) (k : Nat) : (s.advance k).height = s.height := rfl
@[simp] theorem advance_channels (s : State) (k : Nat) : (s.advance k).channels = s.channels := rfl
@[simp] theorem advance_colorspace (s : State) (k : Nat) : (s.advance k).colorspace = s.colorspace := rfl
@[simp] theorem advance_phase (s : State) (k : Nat) : (s.advance k).phase = s.phase := rfl
@[simp] theorem advance_result (s : State) (k : Nat) : (s.advance k).result = s.result := rfl
@[simp] theorem advance_cause (s : State) (k : Nat) : (s.advance k).cause = s.cause := rfl
@[simp] theorem advance_byteSource (s : State) (k : Nat) : (s.advance k).byteSource = s.byteSource.advance k := rfl
@[simp] theorem advance_pixelSource (s : State) (k : Nat) : (s.advance k).pixelSource = s.pixelSource := rfl
@[simp] theorem advance_byteSink (s : State) (k : Nat) : (s.advance k).byteSink = s.byteSink := rfl
@[simp] theorem advance_pixelSink (s : State) (k : Nat) : (s.advance k).pixelSink = s.pixelSink := rfl
@[simp] theorem advance_headerValid (s : State) (k : Nat) : (s.advance k).headerValid = s.headerValid := rfl
@[simp] theorem advance_hostMoves (s : State) (k : Nat) : (s.advance k).hostMoves = s.hostMoves := rfl

@[simp] theorem byteWrites_prev (s : State) (bs : List Byte) : (s.byteWrites bs).prev = s.prev := rfl
@[simp] theorem byteWrites_hist (s : State) (bs : List Byte) : (s.byteWrites bs).hist = s.hist := rfl
@[simp] theorem byteWrites_run (s : State) (bs : List Byte) : (s.byteWrites bs).run = s.run := rfl
@[simp] theorem byteWrites_pos (s : State) (bs : List Byte) : (s.byteWrites bs).pos = s.pos := rfl
@[simp] theorem byteWrites_n (s : State) (bs : List Byte) : (s.byteWrites bs).n = s.n := rfl
@[simp] theorem byteWrites_mode (s : State) (bs : List Byte) : (s.byteWrites bs).mode = s.mode := rfl
@[simp] theorem byteWrites_width (s : State) (bs : List Byte) : (s.byteWrites bs).width = s.width := rfl
@[simp] theorem byteWrites_height (s : State) (bs : List Byte) : (s.byteWrites bs).height = s.height := rfl
@[simp] theorem byteWrites_channels (s : State) (bs : List Byte) : (s.byteWrites bs).channels = s.channels := rfl
@[simp] theorem byteWrites_colorspace (s : State) (bs : List Byte) : (s.byteWrites bs).colorspace = s.colorspace := rfl
@[simp] theorem byteWrites_phase (s : State) (bs : List Byte) : (s.byteWrites bs).phase = s.phase := rfl
@[simp] theorem byteWrites_result (s : State) (bs : List Byte) : (s.byteWrites bs).result = s.result := rfl
@[simp] theorem byteWrites_cause (s : State) (bs : List Byte) : (s.byteWrites bs).cause = s.cause := rfl
@[simp] theorem byteWrites_byteSource (s : State) (bs : List Byte) : (s.byteWrites bs).byteSource = s.byteSource := rfl
@[simp] theorem byteWrites_pixelSource (s : State) (bs : List Byte) : (s.byteWrites bs).pixelSource = s.pixelSource := rfl
@[simp] theorem byteWrites_byteSink (s : State) (bs : List Byte) : (s.byteWrites bs).byteSink = s.byteSink ++ bs := rfl
@[simp] theorem byteWrites_pixelSink (s : State) (bs : List Byte) : (s.byteWrites bs).pixelSink = s.pixelSink := rfl
@[simp] theorem byteWrites_headerValid (s : State) (bs : List Byte) : (s.byteWrites bs).headerValid = s.headerValid := rfl
@[simp] theorem byteWrites_hostMoves (s : State) (bs : List Byte) : (s.byteWrites bs).hostMoves = s.hostMoves := rfl

@[simp] theorem pixEmit_prev (s : State) (p : Pixel) : (s.pixEmit p).prev = s.prev := rfl
@[simp] theorem pixEmit_hist (s : State) (p : Pixel) : (s.pixEmit p).hist = s.hist := rfl
@[simp] theorem pixEmit_run (s : State) (p : Pixel) : (s.pixEmit p).run = s.run := rfl
@[simp] theorem pixEmit_pos (s : State) (p : Pixel) : (s.pixEmit p).pos = s.pos := rfl
@[simp] theorem pixEmit_n (s : State) (p : Pixel) : (s.pixEmit p).n = s.n := rfl
@[simp] theorem pixEmit_mode (s : State) (p : Pixel) : (s.pixEmit p).mode = s.mode := rfl
@[simp] theorem pixEmit_width (s : State) (p : Pixel) : (s.pixEmit p).width = s.width := rfl
@[simp] theorem pixEmit_height (s : State) (p : Pixel) : (s.pixEmit p).height = s.height := rfl
@[simp] theorem pixEmit_channels (s : State) (p : Pixel) : (s.pixEmit p).channels = s.channels := rfl
@[simp] theorem pixEmit_colorspace (s : State) (p : Pixel) : (s.pixEmit p).colorspace = s.colorspace := rfl
@[simp] theorem pixEmit_phase (s : State) (p : Pixel) : (s.pixEmit p).phase = s.phase := rfl
@[simp] theorem pixEmit_result (s : State) (p : Pixel) : (s.pixEmit p).result = s.result := rfl
@[simp] theorem pixEmit_cause (s : State) (p : Pixel) : (s.pixEmit p).cause = s.cause := rfl
@[simp] theorem pixEmit_byteSource (s : State) (p : Pixel) : (s.pixEmit p).byteSource = s.byteSource := rfl
@[simp] theorem pixEmit_pixelSource (s : State) (p : Pixel) : (s.pixEmit p).pixelSource = s.pixelSource := rfl
@[simp] theorem pixEmit_byteSink (s : State) (p : Pixel) : (s.pixEmit p).byteSink = s.byteSink := rfl
@[simp] theorem pixEmit_pixelSink (s : State) (p : Pixel) : (s.pixEmit p).pixelSink = s.pixelSink ++ pixelBytes s.channels p := rfl
@[simp] theorem pixEmit_headerValid (s : State) (p : Pixel) : (s.pixEmit p).headerValid = s.headerValid := rfl
@[simp] theorem pixEmit_hostMoves (s : State) (p : Pixel) : (s.pixEmit p).hostMoves = s.hostMoves := rfl

@[simp] theorem raise_prev (f : Failure) (s : State) : (raise f s).prev = s.prev := rfl
@[simp] theorem raise_hist (f : Failure) (s : State) : (raise f s).hist = s.hist := rfl
@[simp] theorem raise_run (f : Failure) (s : State) : (raise f s).run = s.run := rfl
@[simp] theorem raise_pos (f : Failure) (s : State) : (raise f s).pos = s.pos := rfl
@[simp] theorem raise_n (f : Failure) (s : State) : (raise f s).n = s.n := rfl
@[simp] theorem raise_mode (f : Failure) (s : State) : (raise f s).mode = s.mode := rfl
@[simp] theorem raise_width (f : Failure) (s : State) : (raise f s).width = s.width := rfl
@[simp] theorem raise_height (f : Failure) (s : State) : (raise f s).height = s.height := rfl
@[simp] theorem raise_channels (f : Failure) (s : State) : (raise f s).channels = s.channels := rfl
@[simp] theorem raise_colorspace (f : Failure) (s : State) : (raise f s).colorspace = s.colorspace := rfl
@[simp] theorem raise_phase (f : Failure) (s : State) : (raise f s).phase = f.phase := rfl
@[simp] theorem raise_result (f : Failure) (s : State) : (raise f s).result = false := rfl
@[simp] theorem raise_cause (f : Failure) (s : State) : (raise f s).cause = f.cause := rfl
@[simp] theorem raise_byteSource (f : Failure) (s : State) : (raise f s).byteSource = s.byteSource := rfl
@[simp] theorem raise_pixelSource (f : Failure) (s : State) : (raise f s).pixelSource = s.pixelSource := rfl
@[simp] theorem raise_byteSink (f : Failure) (s : State) : (raise f s).byteSink = s.byteSink := rfl
@[simp] theorem raise_pixelSink (f : Failure) (s : State) : (raise f s).pixelSink = s.pixelSink := rfl
@[simp] theorem raise_headerValid (f : Failure) (s : State) : (raise f s).headerValid = s.headerValid := rfl
@[simp] theorem raise_hostMoves (f : Failure) (s : State) : (raise f s).hostMoves = s.hostMoves := rfl

@[simp] theorem succeed_prev (s : State) : (succeed s).prev = s.prev := rfl
@[simp] theorem succeed_hist (s : State) : (succeed s).hist = s.hist := rfl
@[simp] theorem succeed_run (s : State) : (succeed s).run = s.run := rfl
@[simp] theorem succeed_pos (s : State) : (succeed s).pos = s.pos := rfl
@[simp] theorem succeed_n (s : State) : (succeed s).n = s.n := rfl
@[simp] theorem succeed_mode (s : State) : (succeed s).mode = s.mode := rfl
@[simp] theorem succeed_width (s : State) : (succeed s).width = s.width := rfl
@[simp] theorem succeed_height (s : State) : (succeed s).height = s.height := rfl
@[simp] theorem succeed_channels (s : State) : (succeed s).channels = s.channels := rfl
@[simp] theorem succeed_colorspace (s : State) : (succeed s).colorspace = s.colorspace := rfl
@[simp] theorem succeed_phase (s : State) : (succeed s).phase = .done := rfl
@[simp] theorem succeed_result (s : State) : (succeed s).result = true := rfl
@[simp] theorem succeed_cause (s : State) : (succeed s).cause = s.cause := rfl
@[simp] theorem succeed_byteSource (s : State) : (succeed s).byteSource = s.byteSource := rfl
@[simp] theorem succeed_pixelSource (s : State) : (succeed s).pixelSource = s.pixelSource := rfl
@[simp] theorem succeed_byteSink (s : State) : (succeed s).byteSink = s.byteSink := rfl
@[simp] theorem succeed_pixelSink (s : State) : (succeed s).pixelSink = s.pixelSink := rfl
@[simp] theorem succeed_headerValid (s : State) : (succeed s).headerValid = s.headerValid := rfl
@[simp] theorem succeed_hostMoves (s : State) : (succeed s).hostMoves = s.hostMoves := rfl

end Sys2Proof.Machine
end

