-- ==== Sys2Proof/Laws/Ops.lean ====
section
/-! SUPPORT. What each shared operation can do, said once: the enabling conditions, the commit, the replay of a run, the
end test, the history table, the host's moves and reads. -/

namespace Sys2Proof.Machine

/-! ## History table (R13, R50) -/

theorem histRead_histWrite_same (s : State) (p : Pixel) : (s.histWrite p).histRead (hashPixel p) = p := by
  simp [State.histRead]

theorem histRead_histWrite_other (s : State) (p : Pixel) (i : Fin 64) (h : hashPixel p ≠ i) :
    (s.histWrite p).histRead i = s.histRead i := by
  have : (hashPixel p).val ≠ i.val := fun e => h (Fin.ext e)
  simp [State.histRead, Vector.getElem_set_ne, this]

/-- The table's invariant survives its only write port. -/
theorem histWrite_slots (s : State) (p : Pixel)
    (h : ∀ i : Fin 64, s.histRead i = Config.slotInit ∨ hashPixel (s.histRead i) = i) (i : Fin 64) :
    (s.histWrite p).histRead i = Config.slotInit ∨ hashPixel ((s.histWrite p).histRead i) = i := by
  by_cases e : hashPixel p = i
  · subst e
    exact .inr (by rw [histRead_histWrite_same])
  · rw [histRead_histWrite_other s p i e]
    exact h i

theorem histWrite_twice (s : State) (p : Pixel) : (s.histWrite p).histWrite p = s.histWrite p := by
  simp [State.histWrite]

/-! ## When an item has a step -/

theorem perform_dec {i : Instr} {s : State} {d e : State → Result} (hw : i.wf = true)
    (hp : s.phase = phaseOf i.position) (hm : s.mode = .dec) : perform i s d e = d s := by
  simp [perform, hw, hp, hm]

theorem perform_enc {i : Instr} {s : State} {d e : State → Result} (hw : i.wf = true)
    (hp : s.phase = phaseOf i.position) (hm : s.mode = .enc) : perform i s d e = e s := by
  simp [perform, hw, hp, hm]

/-- An item that answers a next state is an item, in its phase, and did what its mode says. -/
theorem perform_next {i : Instr} {s t : State} {d e : State → Result} (h : perform i s d e = .next t) :
    i.wf = true ∧ s.phase = phaseOf i.position ∧
      ((s.mode = .dec ∧ d s = .next t) ∨ (s.mode = .enc ∧ e s = .next t)) := by
  unfold perform at h
  split at h
  · cases h
  · split at h
    · cases h
    · refine ⟨by simpa using ‹¬i.wf = false›, by simpa using ‹¬s.phase ≠ _›, ?_⟩
      cases hm : s.mode <;> simp_all

/-! ## End of the pixel phase (R122, R145) -/

/-- The end test writes `PHASE` and nothing else. -/
theorem endOfPixels_eq (s : State) :
    endOfPixels s = { s with phase := if s.pos = s.n then .padding else s.phase } := by
  unfold endOfPixels
  split <;> simp

/-! ## Commit and replay (R142, R143) -/

/-- All a commit does. -/
theorem commit_eq (cur : Pixel) (s : State) :
    commit cur s = { s with
      hist := s.hist.set (hashPixel cur).val cur
      pixelSink := s.pixelSink ++ pixelBytes s.channels cur
      prev := cur
      pos := s.pos + 1
      phase := if s.pos + 1 = s.n then .padding else s.phase } := by
  simp [commit, endOfPixels_eq, State.histWrite, State.pixEmit]

/-- All one repetition of a run does. -/
theorem replayPixel_eq (s : State) :
    replayPixel s = { s with
      hist := s.hist.set (hashPixel s.prev).val s.prev
      pixelSink := s.pixelSink ++ pixelBytes s.channels s.prev
      pos := s.pos + 1 } := rfl

/-- All that `k + 1` repetitions do: one slot holds `PREV`, `k + 1` pixels are out. -/
theorem replay_succ_eq (k : Nat) (s : State) :
    replay (k + 1) s = { s with
      hist := s.hist.set (hashPixel s.prev).val s.prev
      pixelSink := s.pixelSink ++ (List.replicate (k + 1) (pixelBytes s.channels s.prev)).flatten
      pos := s.pos + BitVec.ofNat 64 (k + 1) } := by
  induction k generalizing s with
  | zero => simp [replay, replayPixel_eq]
  | succ k ih =>
    have hp : s.pos + 1 + BitVec.ofNat 64 (k + 1) = s.pos + BitVec.ofNat 64 (k + 1 + 1) := by
      rw [BitVec.add_assoc]
      congr 1
      apply BitVec.eq_of_toNat_eq
      simp [Nat.add_comm]
    rw [replay, ih, replayPixel_eq]
    simpa [List.replicate_succ (n := k + 1), List.append_assoc] using hp

/-! ## Streams -/

@[simp] theorem emit_eq (i : Instr) (s : State) : emit i s = { s with byteSink := s.byteSink ++ encode i } := rfl

@[simp] theorem emitRun_eq (length : Nat) (s : State) :
    emitRun length s = { s with byteSink := s.byteSink ++ encode (.run length), run := 0 } := rfl

@[simp] theorem Source.advance_rest (src : Source) (k : Nat) : (src.advance k).rest = src.rest.drop k := by
  simp [Source.rest, Source.advance, List.drop_drop]

theorem Source.exhaust_rest (src : Source) : src.exhaust.rest = [] := by
  simp [Source.rest, Source.exhaust, List.drop_eq_nil_iff]

/-! ## The host's moves and reads (R22, R97, R172) -/

@[simp] theorem hostMove_bindDec (stream : List Byte) (s : State) :
    hostMove (.bindDec stream) s = { s with byteSource := ⟨stream, 0⟩, pixelSink := [] } := rfl

@[simp] theorem hostMove_bindEnc (pixels : List Byte) (s : State) :
    hostMove (.bindEnc pixels) s = { s with pixelSource := ⟨pixels, 0⟩, byteSink := [] } := rfl

/-- "Nothing until terminal". -/
theorem hostHeader_of_not_over {s : State} (h : s.phase.over = false) : s.hostHeader = none := by
  simp [State.hostHeader, h]

/-- An `ENC` pass has no header outputs. -/
theorem hostHeader_enc {s : State} (h : s.mode = .enc) : s.hostHeader = none := by
  simp [State.hostHeader, h]

/-- No header outputs while the registers hold no value. -/
theorem hostHeader_invalid {s : State} (h : s.headerValid = false) : s.hostHeader = none := by
  simp [State.hostHeader, h]

/-- The header outputs of a `DEC` pass that is over. -/
theorem hostHeader_over {s : State} (ho : s.phase.over = true) (hm : s.mode = .dec) (hv : s.headerValid = true) :
    s.hostHeader = some (s.width, s.height, s.channels, s.colorspace) := by
  simp [State.hostHeader, ho, hm, hv]

end Sys2Proof.Machine
end

