-- ==== Sys2Proof/Laws/PerInstr.lean ====
section
/-! SUPPORT. Statements about every instruction as syntax, one lemma per constructor. -/

namespace Sys2Proof.Laws.EncodedLength

/-- An item is encoded in as many bytes as the decoder consumes for it (R77, R66, R67). -/
def Statement (i : Instr) : Prop := (encode i).length = i.length

theorem index (slot : Nat) : Statement (.index slot) := rfl
theorem diff (dr dg db : Int) : Statement (.diff dr dg db) := rfl
theorem luma (dg drDg dbDg : Int) : Statement (.luma dg drDg dbDg) := rfl
theorem run (length : Nat) : Statement (.run length) := rfl
theorem rgb (r g b : Byte) : Statement (.rgb r g b) := rfl
theorem rgba (r g b a : Byte) : Statement (.rgba r g b a) := rfl
theorem header (width height : U32) (channels colorspace : Byte) :
    Statement (.header width height channels colorspace) := rfl
theorem endMarker : Statement .endMarker := rfl

end Sys2Proof.Laws.EncodedLength
end

