-- ==== Sys2Proof/Laws/Step.lean ====
section
/-! SUPPORT. What a step can do, said once. -/

namespace Sys2Proof.Machine

/-! ## What an item can do -/

/-- Each arm over the shared operations. -/
theorem exec_index (slot : Nat) (s : State) : exec (.index slot) s =
    performPixel (.index slot) (fun s => s.histRead (Fin.ofNat 64 slot)) s := rfl
theorem exec_diff (dr dg db : Int) (s : State) : exec (.diff dr dg db) s =
    performPixel (.diff dr dg db) (fun s => shiftPixel s.prev dr dg db) s := rfl
theorem exec_luma (dg drDg dbDg : Int) (s : State) : exec (.luma dg drDg dbDg) s =
    performPixel (.luma dg drDg dbDg) (fun s => lumaPixel s.prev dg drDg dbDg) s := rfl
theorem exec_rgb (r g b : Byte) (s : State) : exec (.rgb r g b) s =
    performPixel (.rgb r g b) (fun s => rgbPixel s.prev r g b) s := rfl
theorem exec_rgba (r g b a : Byte) (s : State) : exec (.rgba r g b a) s =
    performPixel (.rgba r g b a) (fun _ => ⟨r, g, b, a⟩) s := rfl
theorem exec_run (length : Nat) (s : State) : exec (.run length) s = perform (.run length) s
    (fun s => .next (endOfPixels (replay (clippedLength s length) s)))
    (fun s => if length = s.run.toNat then .next (emitRun length s) else .refused .notEnabled) := rfl
theorem exec_header (w h : U32) (c cs : Byte) (s : State) : exec (.header w h c cs) s = perform (.header w h c cs) s
    (fun s => .next (decHeader w h c cs s))
    (fun s => if w = s.width ∧ h = s.height ∧ c = s.channels ∧ cs = s.colorspace then .next (encHeader w h c cs s)
      else .refused .notEnabled) := rfl
theorem exec_endMarker (s : State) : exec .endMarker s =
    perform .endMarker s (fun s => .next (succeed s)) (fun s => .next (succeed (emit .endMarker s))) := rfl

/-- Every meaning is an enabled item's step. -/
theorem exec_perform (i : Instr) (s : State) : ∃ d e, exec i s = perform i s d e := by
  cases i with
  | index slot => exact ⟨_, _, exec_index slot s⟩
  | diff dr dg db => exact ⟨_, _, exec_diff dr dg db s⟩
  | luma dg drDg dbDg => exact ⟨_, _, exec_luma dg drDg dbDg s⟩
  | run length => exact ⟨_, _, exec_run length s⟩
  | rgb r g b => exact ⟨_, _, exec_rgb r g b s⟩
  | rgba r g b a => exact ⟨_, _, exec_rgba r g b a s⟩
  | header w h c cs => exact ⟨_, _, exec_header w h c cs s⟩
  | endMarker => exact ⟨_, _, exec_endMarker s⟩

/-- An item that answers a next state is well formed and in its phase. -/
theorem exec_next {i : Instr} {s t : State} (h : exec i s = .next t) :
    i.wf = true ∧ s.phase = phaseOf i.position := by
  obtain ⟨d, e, he⟩ := exec_perform i s
  rw [he] at h
  exact ⟨(perform_next h).1, (perform_next h).2.1⟩

/-- What an item does in a `DEC` pass. -/
theorem exec_dec_next {i : Instr} {s t : State} (hm : s.mode = .dec) (h : exec i s = .next t) :
    (i.position = .chunk ∧ ∃ cur, t = commit cur s) ∨
    (∃ length, i = .run length ∧ t = endOfPixels (replay (clippedLength s length) s)) ∨
    (∃ w h c cs, i = .header w h c cs ∧ t = decHeader w h c cs s) ∨
    (i = .endMarker ∧ t = succeed s) := by
  have key : ∀ {d e : State → Result} {u : State}, perform i s d e = .next t → d s = .next u → t = u := by
    intro d e u h hu
    obtain ⟨_, _, ⟨_, h⟩ | ⟨hm', _⟩⟩ := perform_next h
    · exact Host.Outcome.next.inj (h.symm.trans hu)
    · rw [hm] at hm'
      cases hm'
  cases i with
  | run length => exact .inr (.inl ⟨length, rfl, key (exec_run length s ▸ h) rfl⟩)
  | header w h' c cs => exact .inr (.inr (.inl ⟨w, h', c, cs, rfl, key (exec_header w h' c cs s ▸ h) rfl⟩))
  | endMarker => exact .inr (.inr (.inr ⟨rfl, key (exec_endMarker s ▸ h) rfl⟩))
  | index slot => exact .inl ⟨rfl, _, key (exec_index slot s ▸ h) rfl⟩
  | diff dr dg db => exact .inl ⟨rfl, _, key (exec_diff dr dg db s ▸ h) rfl⟩
  | luma dg drDg dbDg => exact .inl ⟨rfl, _, key (exec_luma dg drDg dbDg s ▸ h) rfl⟩
  | rgb r g b => exact .inl ⟨rfl, _, key (exec_rgb r g b s ▸ h) rfl⟩
  | rgba r g b a => exact .inl ⟨rfl, _, key (exec_rgba r g b a s ▸ h) rfl⟩

/-- What a header does in an `ENC` pass: it is the header registers'. -/
theorem exec_enc_header_next {s t : State} {w h : U32} {c cs : Byte} (hm : s.mode = .enc)
    (hx : exec (.header w h c cs) s = .next t) : t = encHeader w h c cs s := by
  rw [exec_header] at hx
  obtain ⟨_, _, ⟨hm', _⟩ | ⟨_, hx⟩⟩ := perform_next hx
  · rw [hm] at hm'
    cases hm'
  · split at hx
    · exact (Host.Outcome.next.inj hx).symm
    · cases hx

/-- What an end marker does in an `ENC` pass. -/
theorem exec_enc_endMarker_next {s t : State} (hm : s.mode = .enc) (hx : exec .endMarker s = .next t) :
    t = succeed (emit .endMarker s) := by
  rw [exec_endMarker] at hx
  obtain ⟨_, _, ⟨hm', _⟩ | ⟨_, hx⟩⟩ := perform_next hx
  · rw [hm] at hm'
    cases hm'
  · exact (Host.Outcome.next.inj hx).symm

/-! ## What a step can do -/

/-- The position a running `DEC` pass fetches from is the one its phase belongs to. -/
theorem phaseOf_fetchPosition {s : State}
    (h : s.phase = .header ∨ s.phase = .pixels ∨ s.phase = .padding) : phaseOf (fetchPosition s) = s.phase := by
  rcases h with h | h | h <;> simp [fetchPosition, phaseOf, h]

/-- A host step that answers a next state made the first pending move. -/
theorem hostStep_next {s t : State} (h : hostStep s = .next t) :
    ∃ m ms, s.hostMoves = m :: ms ∧ t = hostMove m { s with hostMoves := ms } := by
  unfold hostStep at h
  split at h
  · cases h
  · next m ms e => exact ⟨m, ms, e, by simpa using h.symm⟩

/-- A step of a `DEC` pass runs what it fetched, or takes the outcome of bytes that are no item. -/
theorem decStep_next {s t : State} (h : decStep s = .next t) :
    (∃ i, fetch s = .ok i ∧ exec i (s.advance i.length) = .next t) ∨
      ∃ r, fetch s = .error r ∧ t = rejected r s := by
  unfold decStep at h
  split at h
  · next i e => exact .inl ⟨i, e, h⟩
  · next r e => exact .inr ⟨r, e, by simpa using h.symm⟩

/-- Every way a step can answer a next state: a move of the host between passes; in a `DEC` pass an item fetched and run,
or bytes that are no item; in an `ENC` pass the header, a pixel, or the end marker. -/
theorem step_cases {s t : State} (h : step s = .next t) :
    ((s.phase = .idle ∨ s.phase = .done ∨ s.phase = .fault) ∧
      ∃ m ms, s.hostMoves = m :: ms ∧ t = hostMove m { s with hostMoves := ms }) ∨
    ((s.phase = .header ∨ s.phase = .pixels ∨ s.phase = .padding) ∧ s.mode = .dec ∧
      ((∃ i, fetch s = .ok i ∧ exec i (s.advance i.length) = .next t) ∨
        ∃ r, fetch s = .error r ∧ t = rejected r s)) ∨
    (s.phase = .header ∧ s.mode = .enc ∧
      exec (.header s.width s.height s.channels s.colorspace) s = .next t) ∨
    (s.phase = .pixels ∧ s.mode = .enc ∧ t = encPixelStep s) ∨
    (s.phase = .padding ∧ s.mode = .enc ∧ exec .endMarker s = .next t) := by
  obtain ⟨p, hp⟩ : ∃ p, s.phase = p := ⟨_, rfl⟩
  obtain ⟨m, hm⟩ : ∃ m, s.mode = m := ⟨_, rfl⟩
  cases p <;> cases m <;> simp only [step, encStep, hp, hm] at h
  case header.dec => exact .inr (.inl ⟨.inl hp, hm, decStep_next h⟩)
  case pixels.dec => exact .inr (.inl ⟨.inr (.inl hp), hm, decStep_next h⟩)
  case padding.dec => exact .inr (.inl ⟨.inr (.inr hp), hm, decStep_next h⟩)
  case header.enc => exact .inr (.inr (.inl ⟨hp, hm, h⟩))
  case pixels.enc => exact .inr (.inr (.inr (.inl ⟨hp, hm, by simpa using h.symm⟩)))
  case padding.enc => exact .inr (.inr (.inr (.inr ⟨hp, hm, h⟩)))
  all_goals exact .inl ⟨by simp [hp], hostStep_next h⟩

/-- The encoder pixel step: a short source abandons it, else the fetched pixel continues the run or is coded afresh. -/
theorem encPixelStep_cases (s : State) :
    (nextPixel s = none ∧ encPixelStep s = pixelUnderrun s) ∨
    (nextPixel s = some s.prev ∧
      encPixelStep s = endOfPixels { continueRun (fetchPixel s) with prev := s.prev }) ∨
    (∃ cur, nextPixel s = some cur ∧ cur ≠ s.prev ∧
      encPixelStep s = endOfPixels { encodeFresh cur (flushRun (fetchPixel s)) with prev := cur }) := by
  cases h : nextPixel s with
  | none => exact .inl ⟨rfl, by simp [encPixelStep, h]⟩
  | some cur =>
    by_cases e : cur = s.prev
    · subst e
      exact .inr (.inl ⟨rfl, by simp [encPixelStep, h, encodePixel, fetchPixel]⟩)
    · exact .inr (.inr ⟨cur, rfl, e, by simp [encPixelStep, h, encodePixel, fetchPixel, e]⟩)

/-- All that a pixel continuing a run does: counted, or written out with the run at the cap and at the last pixel. -/
theorem continueRun_eq (s : State) :
    continueRun s = { s with
      run := if s.run + 1 = 62 ∨ s.pos = s.n then 0 else s.run + 1
      byteSink := s.byteSink ++
        if s.run + 1 = 62 ∨ s.pos = s.n then encode (.run (s.run + 1).toNat) else [] } := by
  unfold continueRun
  dsimp only
  split <;> simp

/-- A coded chunk never reads or moves anything but the table and the byte sink. -/
theorem encodeFresh_eq (cur : Pixel) (s : State) :
    encodeFresh cur s = { s with
      hist := if s.histRead (hashPixel cur) = cur then s.hist else s.hist.set (hashPixel cur).val cur
      byteSink := s.byteSink ++ encode
        (if s.histRead (hashPixel cur) = cur then .index (hashPixel cur).val else literalChunk s.prev cur) } := by
  unfold encodeFresh
  split <;> simp [State.histWrite]

/-- All a flush does. -/
theorem flushRun_eq (s : State) :
    flushRun s = { s with
      run := 0
      byteSink := s.byteSink ++ if s.run = 0 then [] else encode (.run s.run.toNat) } := by
  unfold flushRun
  split
  · next h => rw [List.append_nil, ← h]
  · simp

end Sys2Proof.Machine
end

