-- ==== Sys2Proof/Tests/Slice0.lean ====
section
/-! SUPPORT. The model's own tests: well-formedness, words written out from the encodings, one step of each item in each
mode against the spec's test vectors (95_test_vectors.md), and a witness for the hypotheses of each statement. -/

namespace Sys2Proof.Tests

open Sys2Proof Sys2Proof.Machine

/-! ## Ill-formed terms (R81) -/

theorem test_wf_index : (Instr.index 63).wf = true ∧ (Instr.index 64).wf = false := by decide
theorem test_wf_diff : (Instr.diff (-2) 1 0).wf = true ∧ (Instr.diff 2 0 0).wf = false ∧ (Instr.diff (-3) 0 0).wf = false ∧
    (Instr.diff 0 2 0).wf = false ∧ (Instr.diff 0 (-3) 0).wf = false ∧
    (Instr.diff 0 0 2).wf = false ∧ (Instr.diff 0 0 (-3)).wf = false := by decide
theorem test_wf_luma : (Instr.luma (-32) 7 (-8)).wf = true ∧ (Instr.luma 32 0 0).wf = false ∧
    (Instr.luma (-33) 0 0).wf = false ∧ (Instr.luma 0 8 0).wf = false ∧ (Instr.luma 0 (-9) 0).wf = false ∧
    (Instr.luma 0 0 8).wf = false ∧ (Instr.luma 0 0 (-9)).wf = false := by decide
theorem test_wf_run : (Instr.run 62).wf = true ∧ (Instr.run 63).wf = false ∧ (Instr.run 0).wf = false := by decide

/-! ## Words written out from the encodings (R66, R67, R70 to R75) -/

/-- 00 001011: slot 11 (V-D13). -/
theorem test_decode_index : decodeAt .chunk [0b00001011] = .ok (.index 11) := rfl
/-- 01 11 10 01: fields 3, 2, 1, deltas 1, 0, -1 (V-D1). -/
theorem test_decode_diff : decodeAt .chunk [0b01111001] = .ok (.diff 1 0 (-1)) := rfl
/-- 10 110000, 0010 0100: 48 - 32, 2 - 8, 4 - 8 (V-D9). -/
theorem test_decode_luma : decodeAt .chunk [0b10110000, 0b00100100] = .ok (.luma 16 (-6) (-4)) := rfl
/-- 11 111101: 61 + 1 (V-D15). -/
theorem test_decode_run : decodeAt .chunk [0b11111101] = .ok (.run 62) := rfl
/-- V-D11. -/
theorem test_decode_rgb : decodeAt .chunk [0b11111110, 1, 2, 3] = .ok (.rgb 1 2 3) := rfl
/-- P1. -/
theorem test_decode_rgba : decodeAt .chunk [0b11111111, 0xd2, 0x73, 0x3c, 0x80] = .ok (.rgba 210 115 60 128) := rfl
/-- 20_memory.md R44, V-A4: big-endian. -/
theorem test_decode_header : decodeAt .header [0x71, 0x6f, 0x69, 0x66, 1, 2, 3, 4, 0, 0, 0, 0x82, 3, 0xab] =
    .ok (.header 0x01020304 130 3 0xab) := rfl
theorem test_decode_end : decodeAt .marker [0, 0, 0, 0, 0, 0, 0, 1] = .ok .endMarker := rfl

/-- R167: the order of checks of the header and of the end marker. -/
theorem test_reject_order :
    decodeAt .header [0x71, 0x6f, 0x69] = .error .tooShort ∧ decodeAt .header [0, 0, 0] = .error .tooShort ∧
    decodeAt .header [0x71, 0x6f, 0x69, 0x67] = .error .badMagic ∧
    decodeAt .header [0x71, 0x6f, 0x69, 0x66] = .error .tooShort ∧
    decodeAt .marker [9, 9, 9, 9, 9, 9, 9] = .error .tooShort ∧
    decodeAt .marker [0, 0, 0, 0, 0, 0, 0, 0] = .error .badPadding := ⟨rfl, rfl, rfl, rfl, rfl, rfl⟩

/-- The rows of the opcode table in its own numbering, their operand bits zero. -/
theorem test_table_words :
    decodeTableWord 8 0x00 = some (.index 0) ∧ decodeTableWord 8 0x40 = some (.diff (-2) (-2) (-2)) ∧
    decodeTableWord 16 0x80 = some (.luma (-32) (-8) (-8)) ∧ decodeTableWord 8 0xc0 = some (.run 1) ∧
    decodeTableWord 32 0xfe = some (.rgb 0 0 0) ∧ decodeTableWord 40 0xff = some (.rgba 0 0 0 0) ∧
    decodeTableWord 32 0x716f6966 = some (.header 0 0 0 0) ∧ decodeTableWord 64 1 = some .endMarker := by decide

/-! ## Small states -/

/-- A `DEC` pass of a 50 x 2 image of four channels that has reached the pixel phase, these bytes next. -/
def decoding (stream : List Byte) : State :=
  { State.reset with
    mode := .dec, phase := .pixels, n := 100, width := 50, height := 2, channels := 4, headerValid := true
    byteSource := ⟨stream, 0⟩ }

/-- An `ENC` pass of the same image that has reached the pixel phase, these pixel bytes next. -/
def encoding (pixels : List Byte) : State :=
  { State.reset with
    mode := .enc, phase := .pixels, n := 100, width := 50, height := 2, channels := 4, headerValid := true
    pixelSource := ⟨pixels, 0⟩ }

/-- A pass in its header phase. -/
def atHeader (mode : Mode) (stream : List Byte) : State :=
  { State.reset with mode := mode, phase := .header, byteSource := ⟨stream, 0⟩ }

/-- A pass in its padding phase. -/
def atPadding (mode : Mode) (stream : List Byte) : State :=
  { State.reset with mode := mode, phase := .padding, byteSource := ⟨stream, 0⟩ }

/-- The next state, if there is one. -/
def nextOf : Result → Option State
  | .next t => some t
  | .fault _ => none
  | .refused _ => none

/-! ## One step of each item in a `DEC` pass -/

/-- V-D13. -/
theorem test_step_index :
    (nextOf (step { decoding [0x0b] with hist := State.reset.hist.set 11 ⟨10, 10, 10, 255⟩ })).map
      (fun t => (t.prev, t.pixelSink, t.byteSource.pos)) = some (⟨10, 10, 10, 255⟩, [10, 10, 10, 255], 1) := by decide
/-- V-D3: the wrap, the alpha kept. -/
theorem test_step_diff :
    (nextOf (step { decoding [0x7f] with prev := ⟨255, 0, 255, 7⟩ })).map (fun t => (t.prev, t.histRead 18)) =
      some (⟨0, 1, 0, 7⟩, ⟨0, 1, 0, 7⟩) := by decide
/-- V-D7. -/
theorem test_step_luma :
    (nextOf (step { decoding [0x80, 0x00] with prev := ⟨5, 5, 5, 255⟩ })).map (fun t => (t.prev, t.byteSource.pos)) =
      some (⟨221, 229, 221, 255⟩, 2) := by decide
/-- V-D17: a run clipped to the two pixels left. -/
theorem test_step_run :
    (nextOf (step { decoding [0xfd] with n := 2, channels := 3 })).map
      (fun t => (t.pixelSink, t.pos, t.phase, t.histRead 53)) = some ([0, 0, 0, 0, 0, 0], 2, .padding, ⟨0, 0, 0, 255⟩) := by
  decide
/-- V-D11. -/
theorem test_step_rgb :
    (nextOf (step { decoding [0xfe, 1, 2, 3] with prev := ⟨9, 9, 9, 7⟩ })).map (fun t => (t.prev, t.histRead 47)) =
      some (⟨1, 2, 3, 7⟩, ⟨1, 2, 3, 7⟩) := by decide
/-- V-D12. -/
theorem test_step_rgba :
    (nextOf (step (decoding [0xff, 0, 0, 0, 0x80]))).map (fun t => (t.prev, t.pixelSink)) =
      some (⟨0, 0, 0, 128⟩, [0, 0, 0, 0x80]) := by decide
/-- V-H4: `BAD_CHANNELS` after fourteen bytes, `CHANNELS` readable. -/
theorem test_step_header :
    (nextOf (step (atHeader .dec [0x71, 0x6f, 0x69, 0x66, 0, 0, 0, 1, 0, 0, 0, 1, 5, 0, 0xc0]))).map
      (fun t => (t.phase, t.cause, t.channels, t.byteSource.pos)) = some (.fault, .badChannels, 5, 14) := by decide
/-- P5 with the last byte right, and wrong. -/
theorem test_step_end :
    (nextOf (step (atPadding .dec [0, 0, 0, 0, 0, 0, 0, 1]))).map (fun t => (t.phase, t.result)) = some (.done, true) ∧
    (nextOf (step (atPadding .dec [0, 0, 0, 0, 0, 0, 0, 0]))).map (fun t => (t.phase, t.result, t.cause)) =
      some (.done, false, .badPadding) := by decide

/-! ## One step of the encoder for each item -/

/-- P1 step 5: a pending run of two is flushed, then the slot hits. -/
theorem test_emit_index :
    (nextOf (step { encoding [0xc8, 0x64, 0x32, 0xff] with
      prev := ⟨201, 100, 49, 255⟩, run := 2, hist := State.reset.hist.set 31 ⟨200, 100, 50, 255⟩ })).map
      (fun t => (t.byteSink, t.run, t.prev)) = some ([0xc1, 0x1f], 0, ⟨200, 100, 50, 255⟩) := by decide
/-- V-W1: a difference that wraps. -/
theorem test_emit_diff :
    (nextOf (step (encoding [255, 255, 255, 255]))).map (fun t => (t.byteSink, t.histRead 38)) =
      some ([0x55], ⟨255, 255, 255, 255⟩) := by decide
/-- V-E1. -/
theorem test_emit_luma :
    (nextOf (step (encoding [10, 10, 10, 255]))).map (fun t => (t.byteSink, t.pos)) = some ([0xaa, 0x88], 1) := by decide
/-- P3: the 62nd equal pixel. -/
theorem test_emit_run :
    (nextOf (step { encoding [0, 0, 0, 255] with run := 61 })).map (fun t => (t.byteSink, t.run, t.histRead 53)) =
      some ([0xfd], 0, ⟨0, 0, 0, 0⟩) := by decide
/-- V-E5. -/
theorem test_emit_rgb :
    (nextOf (step { encoding [100, 100, 100] with channels := 3 })).map (fun t => t.byteSink) =
      some [0xfe, 0x64, 0x64, 0x64] := by decide
/-- V-E11: the alpha change forces Rgba. -/
theorem test_emit_rgba :
    (nextOf (step { encoding [2, 2, 2, 254] with prev := ⟨1, 1, 1, 255⟩ })).map (fun t => t.byteSink) =
      some [0xff, 2, 2, 2, 254] := by decide
/-- 40_common.md R98, worked example. -/
theorem test_emit_header :
    (nextOf (step { atHeader .enc [] with width := 2, height := 1, channels := 3 })).map (fun t => (t.byteSink, t.n)) =
      some ([0x71, 0x6f, 0x69, 0x66, 0, 0, 0, 2, 0, 0, 0, 1, 3, 0], 2) := by decide
/-- V-H1. -/
theorem test_emit_end :
    (nextOf (step (atPadding .enc []))).map (fun t => (t.byteSink, t.result, t.phase)) =
      some ([0, 0, 0, 0, 0, 0, 0, 1], true, .done) := by decide

/-! ## The host's probe -/

/-- A row of the opcode table is the first thing that runs after reset once it is placed. -/
theorem test_withFetchWord :
    (nextOf (step (State.reset.withFetchWord 8 0xc0))).map (fun t => (t.pixelSink, t.phase)) =
      some ([0, 0, 0, 255], .pixels) ∧
    (nextOf (step (State.reset.withFetchWord 32 0x716f6966))).map (fun t => (t.phase, t.cause)) =
      some (.fault, .badChannels) ∧
    (nextOf (step (State.reset.withFetchWord 64 1))).map (fun t => (t.phase, t.result)) = some (.done, true) := by decide

/-! ## Witnesses: concrete states and operands that meet the hypotheses of the statements -/

theorem decoding_inv : Inv (decoding [0xfe, 1, 2]) := by constructor <;> decide
theorem encoding_inv : Inv (encoding [0, 0, 0, 255, 1, 1, 1, 255]) := by constructor <;> decide
/-- A `DEC` pass at the end of its pixels. -/
def padded (stream : List Byte) : State := { decoding stream with phase := .padding, pos := 100 }
theorem padded_inv : Inv (padded [0, 0]) := by constructor <;> decide
/-- An `ENC` pass that Start has just set up for a 1 x 1 image, and its pixel. -/
def started : State :=
  { startEnc 1 1 3 0 State.reset with pixelSource := ⟨[7, 7, 7], 0⟩ }
theorem started_inv : Inv started := by constructor <;> decide

theorem witness_TagDispatchInOrder : (0xfe : Byte) = 0xfe ∧ (0xff : Byte) = 0xff ∧
    (0x3f : Byte) ≠ 0xfe ∧ (0x3f : Byte).toNat / 64 = 0 ∧ (0x7f : Byte).toNat / 64 = 1 ∧ (0xbf : Byte).toNat / 64 = 2 ∧
    (0xfd : Byte) ≠ 0xfe ∧ (0xfd : Byte) ≠ 0xff ∧ (0xfd : Byte).toNat / 64 = 3 := by decide
theorem witness_DiffFieldPositions : 0x40 ≤ (0x40 : Byte).toNat ∧ (0x7f : Byte).toNat ≤ 0x7f := by decide
theorem witness_EveryTagHasAKindAndALength :
    chunkLength 0xff ≤ [1, 2, 3, (4 : Byte)].length + 1 ∧ [1, 2, (3 : Byte)].length + 1 < chunkLength 0xff := by decide
theorem witness_DecodeInvertsEncode : (Instr.luma (-32) 7 (-8)).wf = true ∧ (Instr.run 62).wf = true := by decide
theorem witness_EncodeInvertsDecode : decodeAt .chunk [0xbf, 0xff, 0] = .ok (.luma 31 7 7) := rfl
theorem witness_EncodedByteValues : (63 : Nat) < 64 ∧ (-2 : Int) ≤ -2 ∧ (1 : Int) ≤ 1 ∧ (-32 : Int) ≤ 31 ∧ (7 : Int) ≤ 7 ∧
    1 ≤ 62 ∧ 62 ≤ 62 := by decide
theorem witness_DeltasInvertWrappingSums : (-128 : Int) ≤ -128 ∧ (127 : Int) ≤ 127 ∧ delta 128 0 = -128 ∧
    addDelta 0 (-128) = 128 ∧ delta 127 0 = 127 := by decide
theorem witness_PixelOutputBytes : { State.reset with channels := 3 }.channels = 3 ∧ (decoding []).channels = 4 := by decide
theorem witness_IndexExecutes : (63 : Nat) < 64 ∧ Decoding (decoding []) := by decide
theorem witness_DiffExecutes : Decoding (decoding []) ∧ (-2 : Int) ≤ -2 ∧ (-2 : Int) ≤ 1 ∧ (1 : Int) ≤ 1 := by decide
theorem witness_LumaExecutes : Decoding (decoding []) ∧ (-32 : Int) ≤ 31 ∧ (31 : Int) ≤ 31 ∧ (-8 : Int) ≤ 7 := by decide
theorem witness_RgbExecutes : Decoding (decoding []) := by decide
theorem witness_RgbaExecutes : Decoding { decoding [] with channels := 3 } := by decide
theorem witness_RunExecutes : Decoding { decoding [] with pos := 99 } ∧
    { decoding [] with pos := 99 }.pos.toNat < { decoding [] with pos := 99 }.n.toNat ∧ 1 ≤ 62 := by decide
theorem witness_HeaderExecutes : (atHeader .dec []).mode = .dec ∧ (atHeader .dec []).phase = .header := by decide
theorem witness_EndExecutes : (padded []).mode = .dec ∧ (padded []).phase = .padding := by decide
theorem witness_ChunkEmissionAppendsItsBytes : Encoding (encoding []) ∧ (Instr.rgb 1 2 3).wf = true ∧
    (Instr.rgb 1 2 3).position = .chunk ∧ ∀ n, Instr.rgb 1 2 3 ≠ .run n := ⟨by decide, rfl, rfl, fun _ h => by cases h⟩
theorem witness_RunEmissionClearsTheCounter : Encoding { encoding [] with run := 62 } ∧
    1 ≤ { encoding [] with run := 62 }.run.toNat ∧ { encoding [] with run := 62 }.run.toNat ≤ 62 := by decide
theorem witness_ItemsRefusedOutsideTheirStep : (Instr.run 63).wf = false ∧ (Instr.run 62).wf = true ∧
    State.reset.phase ≠ phaseOf (Instr.run 62).position := by decide
theorem witness_ItemsRefusedOutsideTheirStep_enc : started.mode = .enc ∧ started.phase = .header ∧
    ¬((1 : U32) = started.width ∧ (2 : U32) = started.height ∧ (3 : Byte) = started.channels ∧
      (0 : Byte) = started.colorspace) ∧
    Encoding { encoding [] with run := 61 } ∧ 62 ≠ { encoding [] with run := 61 }.run.toNat := by decide
theorem witness_StepRunsTheDecodedItem : (decoding [0xaa, 0x88]).mode = .dec ∧
    (decoding [0xaa, 0x88]).phase = phaseOf (Instr.luma 10 0 0).position ∧
    decodeAt .chunk ((decoding [0xaa, 0x88]).byteSource.bytes.drop (decoding [0xaa, 0x88]).byteSource.pos) =
      .ok (.luma 10 0 0) := ⟨rfl, rfl, rfl⟩
theorem witness_DecoderHeaderStep_match : (atHeader .dec [0x71, 0x6f, 0x69, 0x66, 0, 0, 0, 2, 0, 0, 0, 1, 3, 0]).byteSource.rest =
    [0x71, 0x6f, 0x69, 0x66, 0, 0, 0, 2, 0, 0, 0, 1, 3, 0] ∧ (2 : U32).toNat = 0 * 2 ^ 24 + 0 * 2 ^ 16 + 0 * 2 ^ 8 + 2 := by decide
theorem witness_DecoderHeaderStep_other : [0x71, 0x6f, 0x69, (0x67 : Byte)] ≠ [0x71, 0x6f, 0x69, 0x66] ∧
    (atHeader .dec [0x71, 0x6f, 0x69, 0x67]).byteSource.rest = [0x71, 0x6f, 0x69, 0x67] ∧
    [0, 0, 0, 0, 0, 0, 0, 0, (0 : Byte)].length < 10 ∧
    (atHeader .dec [0x71, 0x6f]).byteSource.rest.length < 4 := by decide
theorem witness_IndexChunkStep : (0x3f : Byte).toNat < 64 ∧ Decoding (decoding [0x3f]) ∧
    (decoding [0x3f]).byteSource.rest = [0x3f] := by decide
theorem witness_DiffChunkStep : Decoding (decoding [0x7f]) ∧ (decoding [0x7f]).byteSource.rest = [0x7f] ∧
    0x40 ≤ (0x7f : Byte).toNat ∧ (0x7f : Byte).toNat ≤ 0x7f := by decide
theorem witness_LumaChunkStep : Decoding (decoding [0xbf, 0xff]) ∧
    (decoding [0xbf, 0xff]).byteSource.pos ≤ (decoding [0xbf, 0xff]).byteSource.bytes.length ∧
    0x80 ≤ (0xbf : Byte).toNat ∧ (0xbf : Byte).toNat ≤ 0xbf ∧ (decoding [0xbf, 0xff]).byteSource.rest = [0xbf, 0xff] ∧
    (decoding [0x80]).byteSource.rest = [0x80] := by decide
theorem witness_LiteralChunkStep : (decoding [0xfe, 1, 2, 3]).byteSource.rest = [0xfe, 1, 2, 3] ∧
    (decoding [0xfe, 1, 2]).byteSource.rest = [0xfe, 1, 2] ∧ [1, (2 : Byte)].length < 3 ∧
    (decoding [0xff, 1, 2, 3, 4]).byteSource.rest = [0xff, 1, 2, 3, 4] ∧
    (decoding [0xff, 1, 2, 3]).byteSource.rest = [0xff, 1, 2, 3] ∧ [1, 2, (3 : Byte)].length < 4 := by decide
theorem witness_RunChunkStep : Decoding (decoding [0xfd]) ∧ (decoding [0xfd]).pos.toNat < (decoding [0xfd]).n.toNat ∧
    (decoding [0xfd]).byteSource.rest = [0xfd] ∧ 0xc0 ≤ (0xfd : Byte).toNat ∧ (0xfd : Byte).toNat ≤ 0xfd := by decide
theorem witness_DecoderPaddingStep : (padded [0, 0]).byteSource.pos ≤ (padded [0, 0]).byteSource.bytes.length ∧
    (padded [0, 0, 0, 0, 0, 0, 0]).byteSource.rest.length < 8 ∧
    8 ≤ (padded [0, 0, 0, 0, 0, 0, 0, 1]).byteSource.rest.length := by decide
theorem witness_UnderrunAbandonsTheStep :
    (atHeader .dec [0x71, 0x6f, 0x69]).byteSource.rest.length < 4 ∧
    (atHeader .dec [0x71, 0x6f, 0x69, 0x66, 0]).byteSource.rest.take 4 = [0x71, 0x6f, 0x69, 0x66] ∧
    (decoding []).byteSource.rest = [] ∧
    (decoding [0xff, 1, 2, 3]).byteSource.rest = 0xff :: [1, 2, 3] ∧ [1, 2, (3 : Byte)].length + 1 < chunkLength 0xff ∧
    (padded [0]).byteSource.rest.length < 8 ∧
    Encoding (encoding [1, 2, 3]) ∧ (encoding [1, 2, 3]).pixelSource.rest.length < (encoding [1, 2, 3]).channels.toNat ∧
    Config.legalChannels (encoding []).channels = true := by decide
theorem witness_EncoderHeaderStep : started.mode = .enc ∧ started.phase = .header := by decide
theorem witness_EncoderEndMarkerStep : (atPadding .enc []).mode = .enc ∧ (atPadding .enc []).phase = .padding := by decide
theorem witness_EncoderPixelFetch : (encoding [1, 2, 3, 4]).channels = 4 ∧
    (encoding [1, 2, 3, 4]).pixelSource.rest = [1, 2, 3, 4] ∧ started.channels = 3 ∧
    started.pixelSource.rest = [7, 7, 7] := by decide
theorem witness_EncoderRunPixelStep : Encoding { encoding [0, 0, 0, 255] with run := 61 } ∧
    { encoding [0, 0, 0, 255] with run := 61 }.run.toNat ≤ 61 ∧
    nextPixel { encoding [0, 0, 0, 255] with run := 61 } = some ⟨0, 0, 0, 255⟩ := by decide
theorem witness_EncoderIndexPixelStep : Encoding (encoding [0, 0, 0, 0]) ∧
    nextPixel (encoding [0, 0, 0, 0]) = some ⟨0, 0, 0, 0⟩ ∧ (⟨0, 0, 0, 0⟩ : Pixel) ≠ (encoding [0, 0, 0, 0]).prev ∧
    (encoding [0, 0, 0, 0]).histRead (hashPixel ⟨0, 0, 0, 0⟩) = ⟨0, 0, 0, 0⟩ := by decide
theorem witness_EncoderMissPixelStep : Encoding (encoding [1, 1, 1, 255]) ∧
    nextPixel (encoding [1, 1, 1, 255]) = some ⟨1, 1, 1, 255⟩ ∧
    (⟨1, 1, 1, 255⟩ : Pixel) ≠ (encoding [1, 1, 1, 255]).prev ∧
    (encoding [1, 1, 1, 255]).histRead (hashPixel ⟨1, 1, 1, 255⟩) ≠ ⟨1, 1, 1, 255⟩ ∧
    delta 1 (encoding [1, 1, 1, 255]).prev.r = 1 := by decide
/-- The same pass at its one pixel. -/
def startedPixels : State := { started with phase := .pixels, n := 1 }
theorem startedPixels_inv : Inv startedPixels := by constructor <;> decide
theorem witness_EncoderConsequences : Inv startedPixels ∧ Encoding startedPixels ∧ startedPixels.channels = 3 ∧
    nextPixel startedPixels = some ⟨7, 7, 7, 255⟩ ∧ (⟨7, 7, 7, 255⟩ : Pixel) ≠ startedPixels.prev ∧
    ∃ t, step startedPixels = .next t :=
  ⟨startedPixels_inv, by decide, rfl, by decide, by decide, _, rfl⟩
theorem witness_StartInitialisesThePass : State.reset.phase.running = false ∧
    { State.reset with hostMoves := [.startEnc 1 1 3 0] }.hostMoves = .startEnc 1 1 3 0 :: [] ∧
    { State.reset with hostMoves := [.startDec] }.hostMoves = .startDec :: [] := by decide
theorem witness_OnlyTheHostMovesBetweenPasses : State.reset.phase.running = false ∧ State.reset.hostMoves = [] ∧
    { State.reset with hostMoves := [.startDec] }.hostMoves = .startDec :: [] ∧
    { State.reset with hostMoves := [.bindDec [1]] }.hostMoves = .bindDec [1] :: [] ∧
    { State.reset with hostMoves := [.bindEnc [1]] }.hostMoves = .bindEnc [1] :: [] := by decide
theorem witness_NothingCrossesAPassBoundary :
    (nextOf (core.run 2 { State.reset with hostMoves := [.startEnc 1 1 3 0] })).map (fun t => t.phase.running) = some true ∧
    { State.reset with hostMoves := [.startEnc 1 1 3 0] }.hostMoves =
      { State.reset with hostMoves := [.startEnc 1 1 3 0], width := 9, phase := .done }.hostMoves := by decide
theorem witness_StepKeepsInvariant : Inv (decoding [0xfe, 1, 2]) ∧ ∃ t, step (decoding [0xfe, 1, 2]) = .next t :=
  ⟨decoding_inv, _, rfl⟩
theorem witness_PhaseTransitions : Inv (padded [0, 0]) ∧ ∃ t, step (padded [0, 0]) = .next t ∧ t.phase = .fault :=
  ⟨padded_inv, _, rfl, rfl⟩
/-- Reset with a host's moves pending. -/
def waiting (moves : List HostMove) : State := { State.reset with hostMoves := moves }
theorem waiting_inv : Inv (waiting [.bindDec [1], .startDec]) ∧ Inv (waiting [.startDec]) := by
  constructor <;> constructor <;> decide
theorem witness_PhaseTransitions_host :
    (∃ t, step (waiting [.bindDec [1], .startDec]) = .next t ∧ t.phase = .idle) ∧
    ∃ t, step (waiting [.startDec]) = .next t ∧ t.phase = .header := ⟨⟨_, rfl, rfl⟩, _, rfl, rfl⟩
theorem witness_ModeAndHeaderFixedDuringAPass : (decoding [0x6a]).phase.running = true ∧
    ∃ t, step (decoding [0x6a]) = .next t := ⟨rfl, _, rfl⟩
theorem witness_StreamsOnlyGoForward : (encoding [1, 1, 1, 255]).phase.running = true ∧
    ∃ t, step (encoding [1, 1, 1, 255]) = .next t := ⟨rfl, _, rfl⟩
theorem witness_ChunkStepOutputMatchesPosition :
    (nextOf (step (decoding [0xc1]))).map (fun t => (decide (t.phase ≠ .fault), t.pos)) = some (true, 2) ∧
    (nextOf (step (decoding [0xfe, 1, 2]))).map (fun t => t.phase) = some .fault := by decide
theorem witness_ChannelsOnlyAffectOutput : Decoding (decoding [0xc1]) ∧ ∃ t, step (decoding [0xc1]) = .next t :=
  ⟨by decide, _, rfl⟩
theorem witness_InitialRunAsymmetry : (decoding []).phase = .pixels ∧ (decoding []).prev = ⟨0, 0, 0, 255⟩ ∧
    (decoding []).hist = Vector.replicate 64 ⟨0, 0, 0, 0⟩ ∧ (decoding []).pos.toNat + 1 < (decoding []).n.toNat ∧
    nextPixel (encoding [0, 0, 0, 255]) = some ⟨0, 0, 0, 255⟩ := by decide
theorem witness_HostReads : PassOver { padded [] with phase := .done } ∧ ¬PassOver (padded []) ∧
    { padded [] with phase := .done }.mode = .dec ∧ { padded [] with phase := .done }.headerValid = true ∧
    (encoding []).mode = .enc ∧ State.reset.headerValid = false := by decide
theorem atHeader_inv : Inv (atHeader .dec [0x71]) := by constructor <;> decide
theorem witness_HeaderOutputsOfEachOutcome :
    (Inv (atHeader .dec [0x71]) ∧ ∃ t, step (atHeader .dec [0x71]) = .next t ∧ PassOver t) ∧
    (nextOf (step (atHeader .dec [0x71, 0x6f, 0x69, 0x66, 0, 0, 0, 2, 0, 0, 0, 1, 5, 0]))).map State.hostHeader =
      some (some (2, 1, 5, 0)) ∧
    (Inv (padded [0, 0]) ∧ ∃ t, step (padded [0, 0]) = .next t ∧ PassOver t) :=
  ⟨⟨atHeader_inv, _, rfl, .inr rfl⟩, by decide, padded_inv, _, rfl, .inr rfl⟩
theorem witness_EveryPassEnds : Inv (decoding [0xfe, 1, 2]) ∧ (decoding [0xfe, 1, 2]).phase.running = true ∧
    (decoding [0xfe, 1, 2]).phase ≠ .header := ⟨decoding_inv, rfl, by decide⟩
theorem witness_EncoderPassSucceeds : Inv started ∧ started.mode = .enc ∧ started.phase = .header ∧
    Config.legalChannels started.channels = true ∧
    started.width.toNat * started.height.toNat * started.channels.toNat ≤ started.pixelSource.rest.length :=
  ⟨started_inv, rfl, rfl, rfl, by decide⟩
theorem witness_DecodeInvertsEncodeOnImages : State.reset.phase.running = false ∧ Config.legalChannels 4 = true ∧
    [1, 2, 3, (4 : Byte)].length = (1 : U32).toNat * (1 : U32).toNat * (4 : Byte).toNat := by decide

end Sys2Proof.Tests
end

/-! # What a step of a running pass leaves

`PassStep` lists the outcomes of a step in `HEADER`, `PIXELS` and `PADDING`, one constructor each. -/

namespace Sys2Proof.Machine

theorem Phase.running_iff {p : Phase} : p.running = true ↔ p = .header ∨ p = .pixels ∨ p = .padding := by
  cases p <;> simp [Phase.running]

theorem Phase.not_running_iff {p : Phase} : p.running = false ↔ p = .idle ∨ p = .done ∨ p = .fault := by
  cases p <;> simp [Phase.running]

/-- The outcomes of a step of a running pass (R98 to R101, R110, R135, R160). -/
inductive PassStep (s : State) : State → Prop where
  | underrun : s.mode = .dec → s.phase.running = true → PassStep s (byteUnderrun s)
  | badMagic : s.mode = .dec → s.phase = .header → 4 ≤ s.byteSource.rest.length →
      PassStep s (raise .badMagic (s.advance 4))
  | badPadding : s.mode = .dec → s.phase = .padding → 8 ≤ s.byteSource.rest.length →
      PassStep s (raise .badPadding (s.advance 8))
  | readHeader (w h : U32) (c cs : Byte) : s.mode = .dec → s.phase = .header → 14 ≤ s.byteSource.rest.length →
      PassStep s (decHeader w h c cs (s.advance 14))
  | readPixel (cur : Pixel) (k : Nat) : Decoding s → k ≤ s.byteSource.rest.length →
      PassStep s (commit cur (s.advance k))
  | readRun (length : Nat) : Decoding s → 1 ≤ length → 1 ≤ s.byteSource.rest.length →
      PassStep s (endOfPixels (replay (clippedLength s length) (s.advance 1)))
  | readMarker : s.mode = .dec → s.phase = .padding → 8 ≤ s.byteSource.rest.length →
      PassStep s (succeed (s.advance 8))
  | writeHeader : s.mode = .enc → s.phase = .header →
      PassStep s (encHeader s.width s.height s.channels s.colorspace s)
  | takePixel : Encoding s → PassStep s (encPixelStep s)
  | writeMarker : s.mode = .enc → s.phase = .padding → PassStep s (succeed (emit .endMarker s))

/-- Bytes that are no item lead to an outcome of their phase. -/
theorem passStep_rejected {s : State} {r : Reject} (hm : s.mode = .dec) (hr : s.phase.running = true)
    (hf : fetch s = .error r) : PassStep s (rejected r s) := by
  rcases Phase.running_iff.mp hr with hp | hp | hp <;> simp only [fetch, fetchPosition, hp, decodeAt] at hf
  · obtain rfl | ⟨rfl, hl⟩ := decodeHeader_error hf
    · exact .underrun hm hr
    · exact .badMagic hm hp hl
  · obtain rfl := decodeChunk_error hf
    exact .underrun hm hr
  · obtain rfl | ⟨rfl, hl⟩ := decodeMarker_error hf
    · exact .underrun hm hr
    · exact .badPadding hm hp hl

/-- A fetched item that runs leads to an outcome of its phase. -/
theorem passStep_exec {s t : State} {i : Instr} (hm : s.mode = .dec) (hf : fetch s = .ok i)
    (hx : exec i (s.advance i.length) = .next t) : PassStep s t := by
  obtain ⟨-, hl⟩ := decodeAt_ok hf
  obtain ⟨hw, hp⟩ := exec_next hx
  obtain ⟨hc, cur, rfl⟩ | ⟨length, rfl, rfl⟩ | ⟨w, h, c, cs, rfl, rfl⟩ | ⟨rfl, rfl⟩ :=
    exec_dec_next (s := s.advance i.length) hm hx
  · rw [hc] at hp
    exact .readPixel cur _ ⟨hm, hp⟩ hl
  · have hlen : 1 ≤ length ∧ length ≤ 62 := by simpa [Instr.wf] using hw
    exact .readRun length ⟨hm, hp⟩ hlen.1 hl
  · exact .readHeader w h c cs hm hp hl
  · exact .readMarker hm hp hl

/-- The list of outcomes is complete. -/
theorem passStep_of_step {s t : State} (hr : s.phase.running = true) (h : step s = .next t) : PassStep s t := by
  obtain ⟨hp, -⟩ | ⟨-, hm, ⟨i, hf, hx⟩ | ⟨r, hf, rfl⟩⟩ | ⟨hp, hm, hx⟩ | ⟨hp, hm, rfl⟩ |
    ⟨hp, hm, hx⟩ := step_cases h
  · rw [Phase.not_running_iff.mpr hp] at hr
    cases hr
  · exact passStep_exec hm hf hx
  · exact passStep_rejected hm hr hf
  · exact exec_enc_header_next hm hx ▸ .writeHeader hm hp
  · exact .takePixel ⟨hm, hp⟩
  · exact exec_enc_endMarker_next hm hx ▸ .writeMarker hm hp

/-- Between passes a step is the host's next pending move (R30). -/
theorem step_of_not_running {s : State} (hr : s.phase.running = false) : step s = hostStep s := by
  unfold step
  obtain hp | hp | hp := Phase.not_running_iff.mp hr <;> rw [hp]

theorem hostStep_of_step {s t : State} (hr : s.phase.running = false) (h : step s = .next t) :
    ∃ m ms, s.hostMoves = m :: ms ∧ t = hostMove m { s with hostMoves := ms } :=
  hostStep_next (step_of_not_running hr ▸ h)

/-! ## The outcomes as record updates -/

theorem commit_eq_afterPixels (cur : Pixel) (s : State) : commit cur s = afterPixels 1 cur s := by
  simp [commit_eq, afterPixels]

theorem endOfPixels_replay_eq_afterPixels {k : Nat} (hk : 1 ≤ k) (s : State) :
    endOfPixels (replay k s) = afterPixels k s.prev s := by
  obtain ⟨k, rfl⟩ := Nat.exists_eq_add_of_le' hk
  rw [replay_succ_eq, endOfPixels_eq]
  rfl

/-- A decoder run is at least one pixel while the budget is not reached, and never passes it (R144). -/
theorem clippedLength_bounds {s : State} {length : Nat} (hb : s.pos.toNat < s.n.toNat) (hl : 1 ≤ length) :
    1 ≤ clippedLength s length ∧ clippedLength s length ≤ s.n.toNat - s.pos.toNat := by
  unfold clippedLength
  omega

/-- A decoder header step with legal `CHANNELS` (R100). -/
theorem decHeader_legal {c : Byte} (hc : Config.legalChannels c = true) (w h : U32) (cs : Byte) (s : State) :
    decHeader w h c cs s = { s with
      width := w, height := h, channels := c, colorspace := cs, headerValid := true
      n := pixelBudget w h, phase := phaseAfterHeader (pixelBudget w h) } := by
  simp [decHeader, hc]

/-- A decoder header step with any other `CHANNELS` (R164). -/
theorem decHeader_illegal {c : Byte} (hc : Config.legalChannels c = false) (w h : U32) (cs : Byte) (s : State) :
    decHeader w h c cs s = raise .badChannels { s with
      width := w, height := h, channels := c, colorspace := cs, headerValid := true } := by
  simp [decHeader, hc]

theorem encHeader_legal {c : Byte} (hc : Config.legalChannels c = true) (w h : U32) (cs : Byte) (s : State) :
    encHeader w h c cs s = { s with
      byteSink := s.byteSink ++ encode (.header w h c cs)
      n := pixelBudget w h, phase := phaseAfterHeader (pixelBudget w h) } := by
  simp [encHeader, hc]

theorem encHeader_illegal {c : Byte} (hc : Config.legalChannels c = false) (w h : U32) (cs : Byte) (s : State) :
    encHeader w h c cs s = raise .badChannels s := by
  simp [encHeader, hc]

/-- All that the encoder does with a pixel equal to `PREV` (R112). -/
theorem repeatPixel_eq (s : State) :
    endOfPixels { continueRun (fetchPixel s) with prev := s.prev } = { s with
      pixelSource := s.pixelSource.advance (pixelSize s.channels)
      run := if s.run + 1 = 62 ∨ s.pos + 1 = s.n then 0 else s.run + 1
      byteSink := s.byteSink ++
        if s.run + 1 = 62 ∨ s.pos + 1 = s.n then encode (.run (s.run + 1).toNat) else []
      pos := s.pos + 1
      phase := if s.pos + 1 = s.n then .padding else s.phase } := by
  rw [endOfPixels_eq, continueRun_eq]
  rfl

/-- All that the encoder does with a pixel that differs from `PREV` (R113 to R120). -/
theorem freshPixel_eq (cur : Pixel) (s : State) :
    endOfPixels { encodeFresh cur (flushRun (fetchPixel s)) with prev := cur } = { s with
      pixelSource := s.pixelSource.advance (pixelSize s.channels)
      run := 0
      hist := if s.histRead (hashPixel cur) = cur then s.hist else s.hist.set (hashPixel cur).val cur
      byteSink := s.byteSink ++ (if s.run = 0 then [] else encode (.run s.run.toNat)) ++ encode
        (if s.histRead (hashPixel cur) = cur then .index (hashPixel cur).val else literalChunk s.prev cur)
      prev := cur
      pos := s.pos + 1
      phase := if s.pos + 1 = s.n then .padding else s.phase } := by
  rw [endOfPixels_eq, encodeFresh_eq, flushRun_eq]
  rfl

end Sys2Proof.Machine

/-! # The invariant is kept

First the updates that leave `PHASE` as it is, then the ends of a pass, the header step, the pixels counted; last the
steps made of them. -/

namespace Sys2Proof.Machine

/-! ## Cursors (R24) -/

theorem Source.rest_length (src : Source) : src.rest.length = src.bytes.length - src.pos := by
  simp [Source.rest]

theorem Source.advance_pos_le {src : Source} {k : Nat} (hp : src.pos ≤ src.bytes.length)
    (hk : k ≤ src.rest.length) :
    (src.advance k).pos ≤ (src.advance k).bytes.length := by
  rw [Source.rest_length] at hk
  simp only [Source.advance]
  omega

theorem Source.exhaust_pos_le {src : Source} (hp : src.pos ≤ src.bytes.length) :
    src.exhaust.pos ≤ src.exhaust.bytes.length := by
  simpa [Source.exhaust] using hp

/-- A pixel that is fetched was there (R111). -/
theorem pixelSize_le_of_nextPixel {s : State} {cur : Pixel} (h : nextPixel s = some cur) :
    pixelSize s.channels ≤ s.pixelSource.rest.length := by
  unfold nextPixel at h
  unfold pixelSize
  split at h
  · next r g b rest e =>
    rw [e]
    split at h
    · next hc =>
      split at h
      · rw [if_pos hc]
        simp
      · cases h
    · next hc =>
      rw [if_neg hc]
      simp
  · cases h

/-- Without an alpha byte a fetched pixel has the alpha of `PREV` (R111). -/
theorem nextPixel_alpha {s : State} {cur : Pixel} (hc : s.channels = 3) (h : nextPixel s = some cur) :
    cur.a = s.prev.a := by
  unfold nextPixel at h
  simp only [hc] at h
  split at h
  · simp at h
    rw [← h]
  · cases h

/-! ## Arithmetic of the budget (R96) -/

/-- The product of two 32-bit numbers is exact in 64 bits. -/
theorem pixelBudget_toNat (w h : U32) : (pixelBudget w h).toNat = w.toNat * h.toNat := by
  have : w.toNat * h.toNat < 2 ^ 32 * 2 ^ 32 := Nat.mul_lt_mul'' w.isLt h.isLt
  simpa [pixelBudget] using Nat.mod_eq_of_lt this

/-- A count that stays within the budget does not wrap. -/
theorem pos_add_toNat {pos n : U64} {k : Nat} (hk : k ≤ n.toNat - pos.toNat) (hb : pos.toNat ≤ n.toNat) :
    (pos + BitVec.ofNat 64 k).toNat = pos.toNat + k := by
  have := n.isLt
  rw [BitVec.toNat_add, BitVec.toNat_ofNat]
  omega

theorem run_add_one_toNat {r : BitVec 6} (h : r.toNat ≤ 61) (h62 : r + 1 ≠ 62) : (r + 1).toNat ≤ 61 := by
  have : (r + 1).toNat ≠ 62 := fun e => h62 (BitVec.eq_of_toNat_eq e)
  bv_omega

/-! ## Updates that leave `PHASE` -/

namespace Inv

variable {s : State}

theorem with_hostMoves (h : Inv s) (ms : List HostMove) : Inv { s with hostMoves := ms } := { h with }

theorem with_sinks (h : Inv s) (bytes pixels : List Byte) :
    Inv { s with byteSink := bytes, pixelSink := pixels } := { h with }

theorem with_byteSource (h : Inv s) {src : Source} (hc : src.pos ≤ src.bytes.length) :
    Inv { s with byteSource := src } := { h with byte_cursor := hc }

theorem with_pixelSource (h : Inv s) {src : Source} (hc : src.pos ≤ src.bytes.length) :
    Inv { s with pixelSource := src } := { h with pixel_cursor := hc }

theorem with_hist (h : Inv s) {hist : Vector Pixel 64}
    (hs : ∀ i : Fin 64, hist[i.val] = Config.slotInit ∨ hashPixel hist[i.val] = i) :
    Inv { s with hist := hist } := { h with slots := hs }

theorem with_prev (h : Inv s) {p : Pixel} (hp : s.phase = .pixels)
    (ha : s.mode = .enc → s.channels = 3 → p.a = 255) : Inv { s with prev := p } :=
  { h with
    fresh := by simp [hp]
    alpha_opaque := fun hm hc _ => ha hm hc }

theorem with_run (h : Inv s) {r : BitVec 6} (hp : s.phase = .pixels) (hm : s.mode = .enc) (hr : r.toNat ≤ 61) :
    Inv { s with run := r } :=
  { h with
    run_le := hr
    run_flushed := fun hpix => absurd hp hpix
    run_dec := by simp [hm] }

theorem advance (h : Inv s) {k : Nat} (hk : k ≤ s.byteSource.rest.length) : Inv (s.advance k) :=
  h.with_byteSource (Source.advance_pos_le h.byte_cursor hk)

/-! ## The ends of a pass (R99, R101, R160) -/

theorem raise_srcUnderrun (h : Inv s) (hr : s.phase.running = true) : Inv (raise .srcUnderrun s) := by
  constructor
  case run_le => exact h.run_le
  case run_dec => exact h.run_dec
  case slots => exact h.slots
  case header_enc => exact fun hm _ => h.header_enc hm (by rintro e; simp [e, Phase.running] at hr)
  case byte_cursor => exact h.byte_cursor
  case pixel_cursor => exact h.pixel_cursor
  all_goals simp [Failure.phase, Failure.cause, Phase.running]

theorem raise_badMagic (h : Inv s) (hm : s.mode = .dec) (hp : s.phase = .header) : Inv (raise .badMagic s) := by
  constructor
  case run_le => exact h.run_le
  case run_flushed => exact fun _ _ => h.run_dec hm
  case run_dec => exact h.run_dec
  case slots => exact h.slots
  case header_unread => exact fun _ _ => h.header_unread hm (.inl hp)
  case byte_cursor => exact h.byte_cursor
  case pixel_cursor => exact h.pixel_cursor
  all_goals simp [Failure.phase, Failure.cause, Phase.running, hm]

theorem raise_badPadding (h : Inv s) (hm : s.mode = .dec) (hp : s.phase = .padding) : Inv (raise .badPadding s) := by
  constructor
  case run_le => exact h.run_le
  case run_flushed => exact fun _ _ => h.run_dec hm
  case run_dec => exact h.run_dec
  case slots => exact h.slots
  case header_read => exact fun _ => h.header_read (.inr (.inl hp))
  case byte_cursor => exact h.byte_cursor
  case pixel_cursor => exact h.pixel_cursor
  all_goals simp [Failure.phase, Failure.cause, Phase.running, hm]

/-- The header registers are written before `CHANNELS` is checked (R100). -/
theorem raise_badChannels (h : Inv s) (w ht : U32) (c cs : Byte) :
    Inv (raise .badChannels { s with
      width := w, height := ht, channels := c, colorspace := cs, headerValid := true }) := by
  constructor
  case run_le => exact h.run_le
  case run_dec => exact h.run_dec
  case slots => exact h.slots
  case byte_cursor => exact h.byte_cursor
  case pixel_cursor => exact h.pixel_cursor
  all_goals simp [Failure.phase, Failure.cause, Phase.running]

theorem succeed (h : Inv s) (hp : s.phase = .padding) : Inv (succeed s) := by
  obtain ⟨-, hcause⟩ := h.status_open (by simp [hp]) (by simp [hp])
  have hv : s.headerValid = true := h.header_read (.inr (.inl hp))
  constructor
  case run_le => exact h.run_le
  case run_flushed => exact fun _ _ => h.run_flushed (by simp [hp]) (by simp [hp])
  case run_dec => exact h.run_dec
  case slots => exact h.slots
  case byte_cursor => exact h.byte_cursor
  case pixel_cursor => exact h.pixel_cursor
  all_goals simp [Phase.running, hcause, hv]

/-! ## Start, and the header step that goes on (R26, R98, R100) -/

/-- What both forms of Start write; `headerValid` tells them apart. -/
theorem starts (h : Inv s) (mode : Mode) (w ht : U32) (c cs : Byte) {v : Bool}
    (henc : mode = .enc → v = true) (hdec : mode = .dec → v = false) :
    Inv { startCommon mode s with width := w, height := ht, channels := c, colorspace := cs, headerValid := v } := by
  constructor
  case slots => exact fun i => .inl (by simp [State.histRead, startCommon])
  case alpha_opaque => exact fun _ _ _ => rfl
  case header_enc => exact fun hm _ => henc hm
  case header_unread => exact fun hm _ => hdec hm
  case byte_cursor => exact h.byte_cursor
  case pixel_cursor => exact h.pixel_cursor
  all_goals simp [startCommon]

theorem hostMove (h : Inv s) (m : HostMove) : Inv (hostMove m s) := by
  cases m with
  | bindDec stream => exact (h.with_byteSource (src := ⟨stream, 0⟩) (Nat.zero_le _)).with_sinks _ _
  | bindEnc pixels => exact (h.with_pixelSource (src := ⟨pixels, 0⟩) (Nat.zero_le _)).with_sinks _ _
  | startEnc w ht c cs => exact h.starts .enc w ht c cs (fun _ => rfl) (fun e => by cases e)
  | startDec => exact h.starts .dec s.width s.height s.channels s.colorspace (fun e => by cases e) (fun _ => rfl)

theorem enterPixels (h : Inv s) (hp : s.phase = .header) (w ht : U32) {c : Byte} (cs : Byte)
    (hc : Config.legalChannels c = true) :
    Inv { s with
      width := w, height := ht, channels := c, colorspace := cs, headerValid := true
      n := pixelBudget w ht, phase := phaseAfterHeader (pixelBudget w ht) } := by
  obtain ⟨hpos, hprev⟩ := h.fresh hp
  obtain ⟨hresult, hcause⟩ := h.status_open (by simp [hp]) (by simp [hp])
  have hrun : s.run = 0 := h.run_flushed (by simp [hp]) (by simp [hp])
  have hn := pixelBudget_toNat w ht
  constructor
  case slots => exact h.slots
  case byte_cursor => exact h.byte_cursor
  case pixel_cursor => exact h.pixel_cursor
  case below_budget =>
    intro hpix
    have hne : pixelBudget w ht ≠ 0 := by simpa [phaseAfterHeader] using hpix
    have : (pixelBudget w ht).toNat ≠ 0 := fun e => hne (BitVec.eq_of_toNat_eq e)
    simp only [hpos]
    exact Nat.pos_of_ne_zero this
  case at_budget =>
    intro hpad
    have hzero : pixelBudget w ht = 0 := by simpa [phaseAfterHeader] using hpad
    exact hpos.trans hzero.symm
  case run_le => simp [hrun]
  case run_flushed => exact fun _ _ => hrun
  case run_dec => exact fun _ => hrun
  case budget => exact fun _ => hn
  case channels_legal => exact fun _ => hc
  case alpha_opaque => exact fun _ _ _ => by simp [hprev, Config.prevInit]
  case status_open => exact fun _ _ => ⟨hresult, hcause⟩
  all_goals
    simp only [phaseAfterHeader]
    split <;> simp [hcause]

/-! ## The pixel phase (R15, R121, R122, R145) -/

/-- Pixels counted within the budget, then the end test. -/
theorem count (h : Inv s) (hp : s.phase = .pixels) {k : Nat} (hk : k ≤ s.n.toNat - s.pos.toNat)
    (hrun : s.pos + BitVec.ofNat 64 k = s.n → s.run = 0) :
    Inv { s with
      pos := s.pos + BitVec.ofNat 64 k
      phase := if s.pos + BitVec.ofNat 64 k = s.n then .padding else s.phase } := by
  have hb := h.below_budget hp
  have hpos := pos_add_toNat hk hb.le
  have hrunning : s.phase.running = true := by simp [hp, Phase.running]
  obtain ⟨hresult, hcause⟩ := h.status_open (by simp [hp]) (by simp [hp])
  by_cases e : s.pos + BitVec.ofNat 64 k = s.n
  · simp only [e, if_true]
    exact { h with
      run_flushed := fun _ _ => hrun e
      fresh := by simp
      below_budget := by simp
      at_budget := fun _ => rfl
      budget := fun _ => h.budget (.inl hp)
      channels_legal := fun _ => h.channels_legal (.inl hp)
      alpha_opaque := fun hm hc _ => h.alpha_opaque hm hc hrunning
      status_open := fun _ _ => ⟨hresult, hcause⟩
      status_done := by simp
      status_fault := by simp
      header_enc := fun hm _ => h.header_enc hm (by simp [hp])
      header_unread := by simp [hcause]
      header_read := fun _ => h.header_read (.inl hp) }
  · simp only [e, if_false]
    exact { h with
      fresh := by simp [hp]
      below_budget := fun _ => by
        have : (s.pos + BitVec.ofNat 64 k).toNat ≠ s.n.toNat := fun e' => e (BitVec.eq_of_toNat_eq e')
        simp only
        omega
      at_budget := by simp [hp] }

/-- What a decoder chunk leaves keeps the invariant (R143). -/
theorem afterPixels (h : Inv s) (hd : Decoding s) {k : Nat} (hk : k ≤ s.n.toNat - s.pos.toNat) (p : Pixel) :
    Inv (afterPixels k p s) := by
  obtain ⟨hm, hp⟩ := hd
  have hhist := h.with_hist (histWrite_slots s p h.slots)
  have hprev := hhist.with_prev (p := p) hp (by simp [hm])
  have hsink := hprev.with_sinks s.byteSink (s.pixelSink ++ (List.replicate k (pixelBytes s.channels p)).flatten)
  exact hsink.count hp hk (fun _ => h.run_dec hm)

/-- A pixel of an encoder pass: its source bytes taken, then `PREV`, the table and `RUN` moved, one pixel counted. -/
theorem encodedPixel (h : Inv s) (he : Encoding s) {cur : Pixel} (hn : nextPixel s = some cur) {r : BitVec 6}
    (hr : r.toNat ≤ 61) (hflush : s.pos + 1 = s.n → r = 0) {hist : Vector Pixel 64}
    (hs : ∀ i : Fin 64, hist[i.val] = Config.slotInit ∨ hashPixel hist[i.val] = i) (out : List Byte) :
    Inv { s with
      pixelSource := s.pixelSource.advance (pixelSize s.channels)
      run := r, hist := hist, byteSink := out, prev := cur, pos := s.pos + 1
      phase := if s.pos + 1 = s.n then .padding else s.phase } := by
  obtain ⟨hm, hp⟩ := he
  have hb := h.below_budget hp
  have halpha : s.mode = .enc → s.channels = 3 → cur.a = 255 := fun _ hc =>
    (nextPixel_alpha hc hn).trans (h.alpha_opaque hm hc (by simp [hp, Phase.running]))
  have hsrc := h.with_pixelSource (Source.advance_pos_le h.pixel_cursor (pixelSize_le_of_nextPixel hn))
  have hrun := hsrc.with_run hp hm hr
  have hprev := (hrun.with_hist hs).with_prev (p := cur) hp halpha
  have hsink := hprev.with_sinks out s.pixelSink
  exact hsink.count (k := 1) hp (by simp only; omega) hflush

theorem encPixelStep (h : Inv s) (he : Encoding s) : Inv (encPixelStep s) := by
  obtain ⟨-, e⟩ | ⟨hn, e⟩ | ⟨cur, hn, -, e⟩ := encPixelStep_cases s <;> rw [e]
  · have hsrc := h.with_pixelSource (Source.exhaust_pos_le h.pixel_cursor)
    exact hsrc.raise_srcUnderrun (by simp [he.2, Phase.running])
  · rw [repeatPixel_eq]
    refine h.encodedPixel he hn ?_ (fun hlast => if_pos (.inr hlast)) h.slots _
    split
    · simp
    · next hgo => exact run_add_one_toNat h.run_le (fun hcap => hgo (.inl hcap))
  · rw [freshPixel_eq]
    refine h.encodedPixel he hn (by simp) (fun _ => rfl) ?_ _
    split
    · exact h.slots
    · exact histWrite_slots s cur h.slots

/-! ## The steps -/

theorem decHeader (h : Inv s) (hp : s.phase = .header) (w ht : U32) (c cs : Byte) : Inv (decHeader w ht c cs s) := by
  cases hc : Config.legalChannels c with
  | true =>
    rw [decHeader_legal hc]
    exact h.enterPixels hp w ht cs hc
  | false =>
    rw [decHeader_illegal hc]
    exact h.raise_badChannels w ht c cs

theorem encHeader (h : Inv s) (hm : s.mode = .enc) (hp : s.phase = .header) :
    Inv (encHeader s.width s.height s.channels s.colorspace s) := by
  have hv : s.headerValid = true := h.header_enc hm (by simp [hp])
  cases hc : Config.legalChannels s.channels with
  | true =>
    rw [encHeader_legal hc]
    have hnext := (h.enterPixels hp s.width s.height s.colorspace hc).with_sinks
      (s.byteSink ++ encode (.header s.width s.height s.channels s.colorspace)) s.pixelSink
    rwa [← hv] at hnext
  | false =>
    rw [encHeader_illegal hc]
    have hnext := h.raise_badChannels s.width s.height s.channels s.colorspace
    rwa [← hv] at hnext

theorem passStep {t : State} (h : Inv s) (hst : PassStep s t) : Inv t := by
  cases hst with
  | underrun hm hr => exact (h.with_byteSource (Source.exhaust_pos_le h.byte_cursor)).raise_srcUnderrun hr
  | badMagic hm hp hl => exact (h.advance hl).raise_badMagic hm hp
  | badPadding hm hp hl => exact (h.advance hl).raise_badPadding hm hp
  | readHeader w ht c cs hm hp hl => exact (h.advance hl).decHeader hp w ht c cs
  | readPixel cur k hd hl =>
    rw [commit_eq_afterPixels]
    have hb := h.below_budget hd.2
    exact (h.advance hl).afterPixels hd (by simp only [advance_n, advance_pos]; omega) cur
  | readRun length hd h1 hl =>
    obtain ⟨hlo, hhi⟩ := clippedLength_bounds (h.below_budget hd.2) h1
    rw [endOfPixels_replay_eq_afterPixels hlo]
    exact (h.advance hl).afterPixels hd hhi s.prev
  | readMarker hm hp hl => exact (h.advance hl).succeed hp
  | writeHeader hm hp => exact h.encHeader hm hp
  | takePixel he => exact h.encPixelStep he
  | writeMarker hm hp => exact (h.with_sinks (s.byteSink ++ encode .endMarker) s.pixelSink).succeed hp

end Inv

/-- Settles O45: every outcome of a running pass and every move of the host keeps `Inv`. -/
theorem stepKeepsInvariant : Obligations.StepKeepsInvariant := by
  intro s t h hstep
  cases hr : s.phase.running with
  | true => exact h.passStep (passStep_of_step hr hstep)
  | false =>
    obtain ⟨m, ms, -, rfl⟩ := hostStep_of_step hr hstep
    exact (h.with_hostMoves ms).hostMove m

end Sys2Proof.Machine

/-! # Which step a state takes, and what a pass leaves alone -/

namespace Sys2Proof

/-! ## Decoded operands are in range (R76, R81) -/

theorem bits_eq (t : Byte) (lo w : Nat) : bits t lo w = t.toNat / 2 ^ lo % 2 ^ w := by
  simp [bits, Nat.shiftRight_eq_div_pow]

theorem bits_lt (t : Byte) (lo w : Nat) : bits t lo w < 2 ^ w := BitVec.isLt _

/-- A field of `w` bits less its bias (R76). -/
theorem unbias_inRange (t : Byte) (lo w : Nat) (k : Int) :
    inRange (-k) (2 ^ w - 1 - k) (unbias k (bits t lo w)) = true := by
  have hlt : (bits t lo w : Int) < 2 ^ w := by exact_mod_cast bits_lt t lo w
  simp only [inRange, Bool.and_eq_true, decide_eq_true_eq]
  unfold unbias
  constructor <;> linarith

/-- The two longest run lengths are the tags of Rgb and Rgba (R73). -/
theorem run_field_le {t : Byte} (hrgb : t ≠ Config.tagRgb) (hrgba : t ≠ Config.tagRgba) (h0 : bits t 6 2 ≠ 0)
    (h1 : bits t 6 2 ≠ 1) (h2 : bits t 6 2 ≠ 2) : bits t 0 6 ≤ 61 := by
  have hne : t.toNat ≠ 0xfe ∧ t.toNat ≠ 0xff :=
    ⟨fun e => hrgb (BitVec.eq_of_toNat_eq e), fun e => hrgba (BitVec.eq_of_toNat_eq e)⟩
  have hlt := t.isLt
  simp only [bits_eq] at *
  omega

/-- Every operand a chunk is decoded to has an encoding (R81). -/
theorem decodeChunk_wf {bs : List Byte} {i : Instr} (h : decodeChunk bs = .ok i) : i.wf = true := by
  cases bs with
  | nil => cases h
  | cons t rest =>
    simp only [decodeChunk] at h
    split at h
    · split at h <;> cases h
      rfl
    next hrgb =>
    split at h
    · split at h <;> cases h
      rfl
    next hrgba =>
    split at h
    · cases h
      exact decide_eq_true (bits_lt t 0 6)
    next h0 =>
    split at h
    · cases h
      simp only [Instr.wf, Bool.and_eq_true]
      exact ⟨⟨unbias_inRange t 4 2 2, unbias_inRange t 2 2 2⟩, unbias_inRange t 0 2 2⟩
    next h1 =>
    split at h
    · split at h <;> cases h
      next u _ =>
      simp only [Instr.wf, Bool.and_eq_true]
      exact ⟨⟨unbias_inRange t 0 6 32, unbias_inRange u 4 4 8⟩, unbias_inRange u 0 4 8⟩
    next h2 =>
    cases h
    have := run_field_le hrgb hrgba h0 h1 h2
    simp only [Instr.wf, Bool.and_eq_true, decide_eq_true_eq]
    omega

/-- What is decoded at any position is an item (R78, R80, R81). -/
theorem decodeAt_wf {p : Position} {bs : List Byte} {i : Instr} (h : decodeAt p bs = .ok i) : i.wf = true := by
  obtain ⟨hp, -⟩ := decodeAt_ok h
  cases p with
  | chunk => exact decodeChunk_wf h
  | header =>
    cases i with
    | header => rfl
    | index | diff | luma | run | rgb | rgba | endMarker => cases hp
  | marker =>
    cases i with
    | endMarker => rfl
    | index | diff | luma | run | rgb | rgba | header => cases hp

end Sys2Proof
namespace Sys2Proof.Machine

/-! ## Which step a state takes (R30) -/

variable {s t : State}

theorem step_of_dec (hr : s.phase.running = true) (hm : s.mode = .dec) : step s = decStep s := by
  unfold step
  obtain hp | hp | hp := Phase.running_iff.mp hr <;> rw [hp, hm]

theorem step_of_enc (hr : s.phase.running = true) (hm : s.mode = .enc) : step s = encStep s := by
  unfold step
  obtain hp | hp | hp := Phase.running_iff.mp hr <;> rw [hp, hm]

theorem decStep_of_fetch_ok {i : Instr} (h : fetch s = .ok i) : decStep s = exec i (s.advance i.length) := by
  simp [decStep, h]

theorem decStep_of_fetch_error {r : Reject} (h : fetch s = .error r) : decStep s = .next (rejected r s) := by
  simp [decStep, h]

theorem hostStep_nil (h : s.hostMoves = []) : hostStep s = .fault .awaitingHost := by
  simp [hostStep, h]

theorem hostStep_cons {m : HostMove} {ms : List HostMove} (h : s.hostMoves = m :: ms) :
    hostStep s = .next (hostMove m { s with hostMoves := ms }) := by
  simp [hostStep, h]

/-- A step between passes with a move pending makes it. -/
theorem step_of_hostMoves {m : HostMove} {ms : List HostMove} (hr : s.phase.running = false)
    (h : s.hostMoves = m :: ms) : step s = .next (hostMove m { s with hostMoves := ms }) :=
  (step_of_not_running hr).trans (hostStep_cons h)

theorem fetchPosition_of_phaseOf {p : Position} (h : s.phase = phaseOf p) : fetchPosition s = p := by
  cases p <;> simp [fetchPosition, phaseOf, h]

theorem phaseOf_running (p : Position) : (phaseOf p).running = true := by
  cases p <;> rfl

theorem perform_illFormed {i : Instr} {d e : State → Result} (hw : i.wf = false) :
    perform i s d e = .refused .illFormed := by
  simp [perform, hw]

theorem perform_notEnabled {i : Instr} {d e : State → Result} (hw : i.wf = true)
    (hp : s.phase ≠ phaseOf i.position) :
    perform i s d e = .refused .notEnabled := by
  simp [perform, hw, hp]

/-- A well-formed item in its phase always runs in a `DEC` pass (R78). -/
theorem exec_dec_answers {i : Instr} (hw : i.wf = true) (hp : s.phase = phaseOf i.position) (hm : s.mode = .dec) :
    ∃ t, exec i s = .next t := by
  cases i with
  | index slot => exact ⟨_, (exec_index slot s).trans (perform_dec hw hp hm)⟩
  | diff dr dg db => exact ⟨_, (exec_diff dr dg db s).trans (perform_dec hw hp hm)⟩
  | luma dg drDg dbDg => exact ⟨_, (exec_luma dg drDg dbDg s).trans (perform_dec hw hp hm)⟩
  | run length => exact ⟨_, (exec_run length s).trans (perform_dec hw hp hm)⟩
  | rgb r g b => exact ⟨_, (exec_rgb r g b s).trans (perform_dec hw hp hm)⟩
  | rgba r g b a => exact ⟨_, (exec_rgba r g b a s).trans (perform_dec hw hp hm)⟩
  | header w h c cs => exact ⟨_, (exec_header w h c cs s).trans (perform_dec hw hp hm)⟩
  | endMarker => exact ⟨_, (exec_endMarker s).trans (perform_dec hw hp hm)⟩

/-- The encoder header step reads its operands from the header registers, so it is never refused (R98). -/
theorem encStep_header (hm : s.mode = .enc) (hp : s.phase = .header) :
    encStep s = .next (encHeader s.width s.height s.channels s.colorspace s) := by
  simp only [encStep, hp, exec_header]
  rw [perform_enc rfl hp hm]
  simp

theorem encStep_pixels (hp : s.phase = .pixels) : encStep s = .next (encPixelStep s) := by
  simp [encStep, hp]

theorem encStep_padding (hm : s.mode = .enc) (hp : s.phase = .padding) :
    encStep s = .next (succeed (emit .endMarker s)) := by
  simp only [encStep, hp, exec_endMarker]
  exact perform_enc rfl hp hm

/-! ## Runs of the core -/

theorem core_run_succ_of_next {k : Nat} {u : State} (h : step s = .next u) :
    core.run (k + 1) s = core.run k u := by
  have hc : core.step s = .next u := h
  simp only [Host.Core.run, hc]

theorem core_run_succ_next {k : Nat} (h : core.run (k + 1) s = .next t) :
    ∃ u, step s = .next u ∧ core.run k u = .next t := by
  simp only [Host.Core.run] at h
  split at h
  · next u hu => exact ⟨u, hu, h⟩
  · cases h
  · cases h

/-- The two steps of a pass boundary: Start and the header step. -/
theorem core_run_two_next (h : core.run 2 s = .next t) : ∃ u, step s = .next u ∧ step u = .next t := by
  obtain ⟨u, hu, h⟩ := core_run_succ_next h
  obtain ⟨v, hv, h⟩ := core_run_succ_next h
  exact ⟨u, hu, hv.trans h⟩

/-! ## What a running pass leaves alone (R16, R31) -/

/-- Repetitions of a run write the table, the pixel sink and `POS` only (R142). -/
theorem replay_frame (k : Nat) (s : State) :
    ∃ hist sink pos, replay k s = { s with hist := hist, pixelSink := sink, pos := pos } := by
  cases k with
  | zero => exact ⟨s.hist, s.pixelSink, s.pos, rfl⟩
  | succ k => exact ⟨_, _, _, replay_succ_eq k s⟩

/-- The fields a running pass does not write, but for the header step. -/
structure SameHeader (s t : State) : Prop where
  mode : t.mode = s.mode
  hostMoves : t.hostMoves = s.hostMoves
  width : t.width = s.width
  height : t.height = s.height
  channels : t.channels = s.channels
  colorspace : t.colorspace = s.colorspace

theorem encPixelStep_sameHeader (s : State) : SameHeader s (encPixelStep s) ∧ (encPixelStep s).n = s.n := by
  obtain ⟨-, e⟩ | ⟨-, e⟩ | ⟨cur, -, -, e⟩ := encPixelStep_cases s <;> rw [e]
  · exact ⟨⟨rfl, rfl, rfl, rfl, rfl, rfl⟩, rfl⟩
  · rw [repeatPixel_eq]
    exact ⟨⟨rfl, rfl, rfl, rfl, rfl, rfl⟩, rfl⟩
  · rw [freshPixel_eq]
    exact ⟨⟨rfl, rfl, rfl, rfl, rfl, rfl⟩, rfl⟩

theorem encHeader_sameHeader (w h : U32) (c cs : Byte) (s : State) : SameHeader s (encHeader w h c cs s) := by
  cases hc : Config.legalChannels c with
  | true =>
    rw [encHeader_legal hc]
    exact ⟨rfl, rfl, rfl, rfl, rfl, rfl⟩
  | false =>
    rw [encHeader_illegal hc]
    exact ⟨rfl, rfl, rfl, rfl, rfl, rfl⟩

theorem decHeader_frame (w h : U32) (c cs : Byte) (s : State) :
    (decHeader w h c cs s).mode = s.mode ∧ (decHeader w h c cs s).hostMoves = s.hostMoves := by
  cases hc : Config.legalChannels c with
  | true => simp [decHeader_legal hc]
  | false => simp [decHeader_illegal hc]

/-- Every outcome but the decoder header step leaves the header registers; past the header the budget stays as well. -/
theorem PassStep.sameHeader (hst : PassStep s t) :
    (s.mode = .dec ∧ s.phase = .header ∧ t.mode = s.mode ∧ t.hostMoves = s.hostMoves) ∨
      (SameHeader s t ∧ (s.phase ≠ .header → t.n = s.n)) := by
  cases hst with
  | readHeader w h c cs hm hp _ => exact .inl ⟨hm, hp, decHeader_frame w h c cs (s.advance 14)⟩
  | writeHeader _ hp => exact .inr ⟨encHeader_sameHeader _ _ _ _ s, fun hne => absurd hp hne⟩
  | takePixel _ => exact .inr ⟨(encPixelStep_sameHeader s).1, fun _ => (encPixelStep_sameHeader s).2⟩
  | readPixel cur k _ _ =>
    rw [commit_eq]
    exact .inr ⟨⟨rfl, rfl, rfl, rfl, rfl, rfl⟩, fun _ => rfl⟩
  | readRun length _ _ _ =>
    obtain ⟨hist, sink, pos, e⟩ := replay_frame (clippedLength s length) (s.advance 1)
    rw [e, endOfPixels_eq]
    exact .inr ⟨⟨rfl, rfl, rfl, rfl, rfl, rfl⟩, fun _ => rfl⟩
  | underrun _ _ => exact .inr ⟨⟨rfl, rfl, rfl, rfl, rfl, rfl⟩, fun _ => rfl⟩
  | badMagic _ _ _ => exact .inr ⟨⟨rfl, rfl, rfl, rfl, rfl, rfl⟩, fun _ => rfl⟩
  | badPadding _ _ _ => exact .inr ⟨⟨rfl, rfl, rfl, rfl, rfl, rfl⟩, fun _ => rfl⟩
  | readMarker _ _ _ => exact .inr ⟨⟨rfl, rfl, rfl, rfl, rfl, rfl⟩, fun _ => rfl⟩
  | writeMarker _ _ => exact .inr ⟨⟨rfl, rfl, rfl, rfl, rfl, rfl⟩, fun _ => rfl⟩

/-! ## The phase a step leads to (R21) -/

/-- A move of the host starts a pass or leaves `PHASE`. -/
theorem hostMove_phase {m : HostMove} {ms : List HostMove} (h : s.hostMoves = m :: ms) (u : State) :
    (StartPending s ∧ (hostMove m u).phase = .header) ∨ (BindingPending s ∧ (hostMove m u).phase = u.phase) := by
  cases m with
  | startDec => exact .inl ⟨⟨ms, .inl h⟩, rfl⟩
  | startEnc w ht c cs => exact .inl ⟨⟨ms, .inr ⟨w, ht, c, cs, h⟩⟩, rfl⟩
  | bindDec bs => exact .inr ⟨⟨bs, ms, .inl h⟩, rfl⟩
  | bindEnc bs => exact .inr ⟨⟨bs, ms, .inr h⟩, rfl⟩

/-- The phase after a header step agrees with the budget it set (R98, R100, D19). -/
theorem phaseAfterHeader_cases (n : U64) :
    (phaseAfterHeader n = .pixels ∧ n ≠ 0) ∨ (phaseAfterHeader n = .padding ∧ n = 0) := by
  by_cases h : n = 0
  · exact .inr ⟨if_pos h, h⟩
  · exact .inl ⟨if_neg h, h⟩

theorem decHeader_phase (w h : U32) (c cs : Byte) (s : State) :
    ((decHeader w h c cs s).phase = .pixels ∧ (decHeader w h c cs s).n ≠ 0) ∨
      ((decHeader w h c cs s).phase = .padding ∧ (decHeader w h c cs s).n = 0) ∨
      (decHeader w h c cs s).phase = .fault := by
  cases hc : Config.legalChannels c with
  | true =>
    rw [decHeader_legal hc]
    exact (phaseAfterHeader_cases _).imp_right .inl
  | false =>
    rw [decHeader_illegal hc]
    exact .inr (.inr rfl)

/-- The header steps of the two modes lead to the same phase and budget. -/
theorem encHeader_phase_n (w h : U32) (c cs : Byte) (s : State) :
    (encHeader w h c cs s).phase = (decHeader w h c cs s).phase ∧
      (encHeader w h c cs s).n = (decHeader w h c cs s).n := by
  cases hc : Config.legalChannels c with
  | true => simp [encHeader_legal hc, decHeader_legal hc]
  | false => simp [encHeader_illegal hc, decHeader_illegal hc]

/-- Out of `HEADER` (R21, R98, R100). -/
theorem PassStep.phase_of_header (hst : PassStep s t) (hp : s.phase = .header) :
    (t.phase = .pixels ∧ t.n ≠ 0) ∨ (t.phase = .padding ∧ t.n = 0) ∨
      (t.phase = .done ∧ t.cause = .badMagic) ∨ t.phase = .fault := by
  cases hst with
  | underrun _ _ => exact .inr (.inr (.inr rfl))
  | badMagic _ _ _ => exact .inr (.inr (.inl ⟨rfl, rfl⟩))
  | readHeader w h c cs _ _ _ => exact (decHeader_phase w h c cs _).imp_right (.imp_right .inr)
  | writeHeader _ _ =>
    obtain ⟨hphase, hn⟩ := encHeader_phase_n s.width s.height s.channels s.colorspace s
    rw [hphase, hn]
    exact (decHeader_phase _ _ _ _ s).imp_right (.imp_right .inr)
  | badPadding _ hp' _ | readMarker _ hp' _ | writeMarker _ hp' => cases hp.symm.trans hp'
  | readPixel _ _ hd _ | readRun _ hd _ _ | takePixel hd => cases hp.symm.trans hd.2

/-- The end test leads from `PIXELS` to `PIXELS` or `PADDING` (R122, R145). -/
theorem endOfPixels_phase (hp : s.phase = .pixels) :
    (endOfPixels s).phase = .pixels ∨ (endOfPixels s).phase = .padding := by
  rw [endOfPixels_eq]
  by_cases e : s.pos = s.n <;> simp [e, hp]

@[simp] theorem continueRun_phase (s : State) : (continueRun s).phase = s.phase := by rw [continueRun_eq]

@[simp] theorem flushRun_phase (s : State) : (flushRun s).phase = s.phase := by rw [flushRun_eq]

@[simp] theorem encodeFresh_phase (cur : Pixel) (s : State) : (encodeFresh cur s).phase = s.phase := by
  rw [encodeFresh_eq]

theorem encPixelStep_phase (hp : s.phase = .pixels) :
    (encPixelStep s).phase = .pixels ∨ (encPixelStep s).phase = .padding ∨ (encPixelStep s).phase = .fault := by
  obtain ⟨-, e⟩ | ⟨-, e⟩ | ⟨cur, -, -, e⟩ := encPixelStep_cases s <;> rw [e]
  · exact .inr (.inr rfl)
  · exact (endOfPixels_phase (by simp [fetchPixel, hp])).imp_right .inl
  · exact (endOfPixels_phase (by simp [fetchPixel, hp])).imp_right .inl

/-- Out of `PIXELS` (R21). -/
theorem PassStep.phase_of_pixels (hst : PassStep s t) (hp : s.phase = .pixels) :
    t.phase = .pixels ∨ t.phase = .padding ∨ t.phase = .fault := by
  cases hst with
  | underrun _ _ => exact .inr (.inr rfl)
  | readPixel cur k _ _ => exact (endOfPixels_phase (by exact hp)).imp_right .inl
  | readRun length _ _ _ =>
    obtain ⟨hist, sink, pos, e⟩ := replay_frame (clippedLength s length) (s.advance 1)
    rw [e]
    exact (endOfPixels_phase (by exact hp)).imp_right .inl
  | takePixel _ => exact encPixelStep_phase hp
  | badMagic _ hp' _ | readHeader _ _ _ _ _ hp' _ | writeHeader _ hp' => cases hp.symm.trans hp'
  | badPadding _ hp' _ | readMarker _ hp' _ | writeMarker _ hp' => cases hp.symm.trans hp'

/-- Out of `PADDING` (R21, R99, R101, R162). -/
theorem PassStep.phase_of_padding (hst : PassStep s t) (hp : s.phase = .padding) :
    t.phase = .done ∨ t.phase = .fault := by
  cases hst with
  | underrun _ _ => exact .inr rfl
  | badPadding _ _ _ | readMarker _ _ _ | writeMarker _ _ => exact .inl rfl
  | badMagic _ hp' _ | readHeader _ _ _ _ _ hp' _ | writeHeader _ hp' => cases hp.symm.trans hp'
  | readPixel _ _ hd _ | readRun _ hd _ _ | takePixel hd => cases hp.symm.trans hd.2

/-! ## What a decoder chunk puts out (R15, R43, R144) -/

theorem pixelBytes_length {c : Byte} (hc : Config.legalChannels c = true) (p : Pixel) :
    (pixelBytes c p).length = c.toNat := by
  obtain rfl | rfl : c = 3 ∨ c = 4 := by simpa [Config.legalChannels] using hc
  · rfl
  · rfl

/-- `POS` counts the pixels of a chunk, and each is `CHANNELS` bytes of the sink. -/
theorem afterPixels_output {k : Nat} (hb : s.pos.toNat < s.n.toNat) (hk : k ≤ s.n.toNat - s.pos.toNat)
    (hc : Config.legalChannels s.channels = true) (p : Pixel) :
    (afterPixels k p s).pos.toNat = s.pos.toNat + k ∧
      (afterPixels k p s).pixelSink.length = s.pixelSink.length + k * s.channels.toNat := by
  refine ⟨pos_add_toNat hk hb.le, ?_⟩
  simp [afterPixels, pixelBytes_length hc]

theorem afterPixels_phase_ne_fault {k : Nat} {p : Pixel} (hp : s.phase = .pixels) :
    (afterPixels k p s).phase ≠ .fault := by
  simp only [afterPixels, hp]
  split <;> decide

/-- A chunk step of a `DEC` pass, in a state that meets `Inv`: the source runs dry, or pixels within the budget come
out. -/
theorem decoding_step_cases (h : Inv s) (hd : Decoding s) (hst : PassStep s t) :
    t = byteUnderrun s ∨ ∃ j k p, 1 ≤ k ∧ k ≤ s.n.toNat - s.pos.toNat ∧ t = afterPixels k p (s.advance j) := by
  obtain ⟨hm, hp⟩ := hd
  have hb := h.below_budget hp
  cases hst with
  | underrun _ _ => exact .inl rfl
  | readPixel cur j _ _ => exact .inr ⟨j, 1, cur, le_rfl, by omega, commit_eq_afterPixels cur _⟩
  | readRun length _ h1 _ =>
    obtain ⟨hlo, hhi⟩ := clippedLength_bounds hb h1
    exact .inr ⟨1, _, s.prev, hlo, hhi, endOfPixels_replay_eq_afterPixels hlo _⟩
  | badMagic _ hp' _ | readHeader _ _ _ _ _ hp' _ | writeHeader _ hp' => cases hp.symm.trans hp'
  | badPadding _ hp' _ | readMarker _ hp' _ | writeMarker _ hp' => cases hp.symm.trans hp'
  | takePixel he => cases hm.symm.trans he.1

/-! ## What the header step forgets (R25, R26) -/

theorem rejected_not_running (r : Reject) (s : State) : (rejected r s).phase.running = false := by
  cases r <;> rfl

/-- What is fetched in the header phase is a header (R80). -/
theorem fetch_header {i : Instr} (hp : s.phase = .header) (hf : fetch s = .ok i) :
    ∃ w h c cs, i = .header w h c cs := by
  obtain ⟨hpos, -⟩ := decodeAt_ok hf
  rw [fetchPosition_of_phaseOf (p := .header) hp] at hpos
  cases i with
  | header w h c cs => exact ⟨w, h, c, cs, rfl⟩
  | index | diff | luma | run | rgb | rgba | endMarker => cases hpos

theorem exec_dec_header {w h : U32} {c cs : Byte} (hp : s.phase = .header) (hm : s.mode = .dec) :
    exec (.header w h c cs) s = .next (decHeader w h c cs s) :=
  (exec_header w h c cs s).trans (perform_dec rfl hp hm)

/-- A state with other header registers and another budget. -/
def withHeader (w h : U32) (c cs : Byte) (n : U64) (s : State) : State :=
  { s with width := w, height := h, channels := c, colorspace := cs, n := n }

/-- A decoder header step that goes on overwrites the header registers and the budget (R100). -/
theorem decHeader_withHeader {w h : U32} {c cs : Byte} (hrun : (decHeader w h c cs s).phase.running = true)
    (w' h' : U32) (c' cs' : Byte) (n' : U64) :
    decHeader w h c cs (withHeader w' h' c' cs' n' s) = decHeader w h c cs s := by
  cases hc : Config.legalChannels c with
  | true =>
    rw [decHeader_legal hc, decHeader_legal hc]
    rfl
  | false =>
    rw [decHeader_illegal hc] at hrun
    cases hrun

/-- An encoder header step that goes on overwrites the budget (R98). -/
theorem encHeader_withHeader {w h : U32} {c cs : Byte} (hrun : (encHeader w h c cs s).phase.running = true) (n' : U64) :
    encHeader w h c cs (withHeader s.width s.height s.channels s.colorspace n' s) = encHeader w h c cs s := by
  cases hc : Config.legalChannels c with
  | true =>
    rw [encHeader_legal hc, encHeader_legal hc]
    rfl
  | false =>
    rw [encHeader_illegal hc] at hrun
    cases hrun

/-- The header step of a `DEC` pass that goes on does not depend on the header registers or the budget. -/
theorem step_dec_header_forgets (hm : s.mode = .dec) (hp : s.phase = .header) (hst : step s = .next t)
    (hrun : t.phase.running = true) (w' h' : U32) (c' cs' : Byte) (n' : U64) :
    step (withHeader w' h' c' cs' n' s) = .next t := by
  have hr : s.phase.running = true := by rw [hp]; rfl
  rw [step_of_dec hr hm] at hst
  rw [step_of_dec (s := withHeader w' h' c' cs' n' s) hr hm]
  obtain ⟨i, hf, hx⟩ | ⟨r, -, rfl⟩ := decStep_next hst
  · obtain ⟨w, h, c, cs, rfl⟩ := fetch_header hp hf
    rw [exec_dec_header (s := s.advance _) hp hm] at hx
    cases hx
    rw [decStep_of_fetch_ok (s := withHeader w' h' c' cs' n' s) hf,
      exec_dec_header (s := (withHeader w' h' c' cs' n' s).advance _) hp hm]
    exact congrArg _ (decHeader_withHeader hrun w' h' c' cs' n')
  · rw [rejected_not_running] at hrun
    cases hrun

/-- The header step of an `ENC` pass that goes on does not depend on the budget. -/
theorem step_enc_header_forgets (hm : s.mode = .enc) (hp : s.phase = .header) (hst : step s = .next t)
    (hrun : t.phase.running = true) (n' : U64) :
    step (withHeader s.width s.height s.channels s.colorspace n' s) = .next t := by
  have hr : s.phase.running = true := by rw [hp]; rfl
  rw [step_of_enc hr hm, encStep_header hm hp] at hst
  cases hst
  rw [step_of_enc (s := withHeader _ _ _ _ n' s) hr hm, encStep_header (s := withHeader _ _ _ _ n' s) hm hp]
  exact congrArg _ (encHeader_withHeader hrun n')

end Sys2Proof.Machine

/-! # The statements of 10_state.md -/

namespace Sys2Proof.Machine

/-- Settles O43: Start leaves the two machines equal but for the registers and the budget the header step writes. -/
theorem nothingCrossesAPassBoundary : Obligations.NothingCrossesAPassBoundary := by
  intro s1 s2 t hr1 hr2 hbs hps hbk hpk hmoves hstart hrun ht
  obtain ⟨u, hu, hut⟩ := core_run_two_next hrun
  obtain ⟨m, ms, hm1, rfl⟩ := hostStep_of_step hr1 hu
  have hm2 : s2.hostMoves = m :: ms := hmoves ▸ hm1
  have hu2 : step s2 = .next (hostMove m { s2 with hostMoves := ms }) :=
    (step_of_not_running hr2).trans (hostStep_cons hm2)
  refine (core_run_succ_of_next hu2).trans ((core_run_succ_of_next ?_).trans rfl)
  obtain ⟨ms', h | ⟨w, h, c, cs, h⟩⟩ := hstart
  · obtain ⟨rfl, -⟩ := List.cons.inj (hm1.symm.trans h)
    have hsame := step_dec_header_forgets rfl rfl hut ht s2.width s2.height s2.channels s2.colorspace s2.n
    simpa only [withHeader, hostMove, startDec, startCommon, hbs, hps, hbk, hpk] using hsame
  · obtain ⟨rfl, -⟩ := List.cons.inj (hm1.symm.trans h)
    have hsame := step_enc_header_forgets rfl rfl hut ht s2.n
    simpa only [withHeader, hostMove, startEnc, startCommon, hbs, hps, hbk, hpk] using hsame

/-- Settles O46: a move of the host between passes, else the outcomes of each phase; the bounds on `POS` are `Inv`. -/
theorem phaseTransitions : Obligations.PhaseTransitions := by
  intro s t h hstep
  have ht : Inv t := stepKeepsInvariant s t h hstep
  have hhost : s.phase.running = false →
      (StartPending s ∧ t.phase = .header) ∨ (BindingPending s ∧ t.phase = s.phase) := fun hr => by
    obtain ⟨m, ms, hm, rfl⟩ := hostStep_of_step hr hstep
    exact hostMove_phase hm _
  have hpass : s.phase.running = true → PassStep s t := fun hr => passStep_of_step hr hstep
  cases hp : s.phase <;> rw [hp] at hhost hpass
  case idle => exact hhost rfl
  case done => exact hhost rfl
  case fault => exact hhost rfl
  case header => exact (hpass rfl).phase_of_header hp
  case pixels =>
    obtain e | e | e := (hpass rfl).phase_of_pixels hp
    · exact .inl ⟨e, ht.below_budget e⟩
    · exact .inr (.inl ⟨e, ht.at_budget e⟩)
    · exact .inr (.inr e)
  case padding => exact (hpass rfl).phase_of_padding hp

/-- Settles O47: what a `DEC` pass fetches is well formed and in its phase, an `ENC` pass builds its own items. -/
theorem everyStepHasAMeaning : Obligations.EveryStepHasAMeaning := by
  intro s
  cases hr : s.phase.running with
  | false =>
    rw [step_of_not_running hr]
    cases hm : s.hostMoves with
    | nil => exact .inr ⟨rfl, rfl, hostStep_nil hm⟩
    | cons m ms => exact .inl ⟨_, hostStep_cons hm⟩
  | true =>
    refine .inl ?_
    have hphase := Phase.running_iff.mp hr
    cases hm : s.mode with
    | dec =>
      rw [step_of_dec hr hm]
      cases hf : fetch s with
      | error r => exact ⟨_, decStep_of_fetch_error hf⟩
      | ok i =>
        rw [decStep_of_fetch_ok hf]
        have hp : s.phase = phaseOf i.position := by rw [(decodeAt_ok hf).1, phaseOf_fetchPosition hphase]
        exact exec_dec_answers (decodeAt_wf hf) hp hm
    | enc =>
      rw [step_of_enc hr hm]
      obtain hp | hp | hp := hphase
      · exact ⟨_, encStep_header hm hp⟩
      · exact ⟨_, encStep_pixels hp⟩
      · exact ⟨_, encStep_padding hm hp⟩

/-- Settles O48, by the outcomes of a running pass: only the decoder header step writes the header registers. -/
theorem modeAndHeaderFixedDuringAPass : Obligations.ModeAndHeaderFixedDuringAPass := by
  intro s t hr hstep
  obtain ⟨hm, hp, hmode, hmoves⟩ | ⟨hsame, hn⟩ := (passStep_of_step hr hstep).sameHeader
  · refine ⟨hmode, hmoves, fun hor => ?_, fun hne => absurd hp hne⟩
    simp [hm, hp] at hor
  · exact ⟨hsame.mode, hsame.hostMoves,
      fun _ => ⟨hsame.width, hsame.height, hsame.channels, hsame.colorspace⟩, hn⟩

/-- Settles O50: a chunk step that does not underrun leaves `afterPixels` of at least one pixel, within the budget. -/
theorem chunkStepOutputMatchesPosition : Obligations.ChunkStepOutputMatchesPosition := by
  intro s t h hd hstep
  have hb := h.below_budget hd.2
  have hr : s.phase.running = true := by rw [hd.2]; rfl
  obtain rfl | ⟨j, k, p, h1, hk, rfl⟩ := decoding_step_cases h hd (passStep_of_step hr hstep)
  · exact ⟨fun hne => absurd rfl hne, fun _ => ⟨rfl, rfl⟩⟩
  · obtain ⟨hpos, hsink⟩ := afterPixels_output (s := s.advance j) hb hk (h.channels_legal (.inl hd.2)) p
    simp only [advance_pos, advance_pixelSink, advance_channels] at hpos hsink
    refine ⟨fun _ => ?_, fun hf => ?_⟩
    · rw [hpos, hsink, Nat.add_sub_cancel_left]
      exact ⟨by omega, by omega, rfl⟩
    · exact absurd hf (afterPixels_phase_ne_fault (s := s.advance j) hd.2)

/-- Settles O12: the slot of the pixel's hash, then every other slot; the frame is by definition. -/
theorem historyReadAfterWrite : Obligations.HistoryReadAfterWrite := by
  intro s p i
  refine ⟨?_, rfl⟩
  split
  · next e => rw [← e, histRead_histWrite_same]
  · next e => exact histRead_histWrite_other s p i e

/-- Settles O23: every meaning is `perform`'s, which refuses first; then the two refusals of an `ENC` pass. -/
theorem itemsRefusedOutsideTheirStep : Obligations.ItemsRefusedOutsideTheirStep := by
  intro i s
  obtain ⟨d, e, he⟩ := exec_perform i s
  refine ⟨fun hw => ?_, fun hw hp => ?_, fun hm hp w h c cs hne => ?_, fun henc length h1 h62 hne => ?_⟩
  · rw [he, perform_illFormed hw]
  · rw [he, perform_notEnabled hw hp]
  · rw [exec_header, perform_enc rfl hp hm, if_neg hne]
  · have hw : (Instr.run length).wf = true := by simp [Instr.wf, h1, h62]
    rw [exec_run, perform_enc hw henc.2 henc.1, if_neg hne]

/-- Settles O24: in an item's phase the fetch is at its position. -/
theorem stepRunsTheDecodedItem : Obligations.StepRunsTheDecodedItem := by
  intro s i hm hp hdec
  have hf : fetch s = .ok i := by
    rw [fetch, fetchPosition_of_phaseOf hp]
    exact hdec
  have hr : s.phase.running = true := by rw [hp, phaseOf_running]
  rw [step_of_dec hr hm, decStep_of_fetch_ok hf]
  rfl

/-- Settles O40: at reset the host has no move pending. -/
theorem hardwareReset : Obligations.HardwareReset :=
  ⟨rfl, rfl, rfl, (step_of_not_running rfl).trans (hostStep_nil rfl)⟩

/-- Settles O41: a pending Start is the step, and what it writes is its definition. -/
theorem startInitialisesThePass : Obligations.StartInitialisesThePass := by
  intro s hr ms
  exact ⟨fun w h c cs hm => step_of_hostMoves hr hm, fun hm => step_of_hostMoves hr hm⟩

/-- Settles O42: between passes a step is `hostStep`, which makes the first pending move. -/
theorem onlyTheHostMovesBetweenPasses : Obligations.OnlyTheHostMovesBetweenPasses := by
  intro s hr
  refine ⟨fun hm => ?_, fun m ms hm => ?_, fun stream ms hm => ?_, fun pixels ms hm => ?_⟩
  · exact (step_of_not_running hr).trans (hostStep_nil hm)
  · exact step_of_hostMoves hr hm
  · exact step_of_hostMoves hr hm
  · exact step_of_hostMoves hr hm

/-- Settles O44: every slot holds the initial pixel, and the other clauses are about named values. -/
theorem resetMeetsInvariant : Obligations.ResetMeetsInvariant := by
  constructor
  case slots => exact fun i => .inl (by simp [State.histRead, State.reset])
  all_goals decide

theorem Phase.over_iff {p : Phase} : p.over = true ↔ p = .done ∨ p = .fault := by
  cases p <;> simp [Phase.over]

/-- Settles O53: the reads are guarded by `Phase.over`, which is `PassOver`. -/
theorem hostReads : Obligations.HostReads := by
  intro s
  have hover : PassOver s → s.phase.over = true := Phase.over_iff.mpr
  have hnot : ¬PassOver s → s.phase.over = false := fun h => Bool.eq_false_iff.mpr fun ho => h (Phase.over_iff.mp ho)
  refine ⟨rfl, fun h => ?_, fun h => ?_, hostHeader_enc, fun h hm hv => hostHeader_over (hover h) hm hv,
    hostHeader_invalid⟩
  · simp [State.hostResult, State.hostCause, hover h]
  · simp [State.hostResult, State.hostCause, hnot h, hostHeader_of_not_over]

end Sys2Proof.Machine

/-! # Bytes that end within an item (R48, R77) -/

namespace Sys2Proof

theorem length_of_header_position {i : Instr} (h : i.position = .header) : i.length = 14 := by
  cases i with
  | header => rfl
  | index | diff | luma | run | rgb | rgba | endMarker => cases h

/-- A bad magic is four bytes that are not the magic (R161). -/
theorem take_ne_magic_of_badMagic {bs : List Byte} (h : decodeHeader bs = .error .badMagic) :
    bs.take 4 ≠ Config.magic := by
  unfold decodeHeader at h
  split at h
  · split at h
    · split at h <;> cases h
    · assumption
  · cases h

/-- A header cut short before its magic is complete, or after the right magic (R167). -/
theorem decodeHeader_tooShort {bs : List Byte} (hl : bs.length < 14)
    (hm : bs.length < 4 ∨ bs.take 4 = Config.magic) : decodeHeader bs = .error .tooShort := by
  cases hd : decodeHeader bs with
  | ok i =>
    obtain ⟨hp, hle⟩ := decodeHeader_ok hd
    rw [length_of_header_position hp] at hle
    omega
  | error r =>
    obtain rfl | ⟨rfl, h4⟩ := decodeHeader_error hd
    · rfl
    · obtain h | h := hm
      · omega
      · exact absurd h (take_ne_magic_of_badMagic hd)

/-- The tag byte alone fixes how many bytes a chunk takes (R77). -/
theorem length_eq_chunkLength {t : Byte} {rest : List Byte} {i : Instr} (h : decodeChunk (t :: rest) = .ok i) :
    i.length = chunkLength t := by
  simp only [decodeChunk] at h
  split at h
  · next hrgb =>
    split at h <;> cases h
    simp [chunkLength, Instr.length, hrgb]
  next hrgb =>
  split at h
  · next hrgba =>
    split at h <;> cases h
    simp only [chunkLength, Instr.length, if_neg hrgb, if_pos hrgba]
  next hrgba =>
  split at h
  · next h0 =>
    cases h
    simp [chunkLength, Instr.length, hrgb, hrgba, h0]
  split at h
  · next h1 =>
    cases h
    simp [chunkLength, Instr.length, hrgb, hrgba, h1]
  split at h
  · next h2 =>
    split at h <;> cases h
    simp [chunkLength, Instr.length, hrgb, hrgba, h2]
  · next h2 =>
    cases h
    simp [chunkLength, Instr.length, hrgb, hrgba, h2]

/-- A chunk with fewer bytes left than its tag asks for. -/
theorem decodeChunk_tooShort {t : Byte} {rest : List Byte} (hl : rest.length + 1 < chunkLength t) :
    decodeChunk (t :: rest) = .error .tooShort := by
  cases hd : decodeChunk (t :: rest) with
  | ok i =>
    have hle : i.length ≤ rest.length + 1 := (decodeChunk_ok hd).2
    rw [length_eq_chunkLength hd] at hle
    omega
  | error r => rw [decodeChunk_error hd]

theorem decodeMarker_tooShort {bs : List Byte} (hl : bs.length < 8) : decodeMarker bs = .error .tooShort := by
  simp [decodeMarker, hl]

end Sys2Proof

/-! # What an underrun leaves, and where the streams go (R41 to R43, R47, R163) -/

namespace Sys2Proof.Machine

variable {s t : State}

/-! ## Underrun -/

theorem Source.exhaust_eq {src : Source} (hp : src.pos ≤ src.bytes.length) :
    src.exhaust = { src with pos := src.bytes.length } := by
  simp [Source.exhaust, hp]

theorem byteUnderrun_eq_afterByteUnderrun (hp : s.byteSource.pos ≤ s.byteSource.bytes.length) :
    byteUnderrun s = afterByteUnderrun s := by
  rw [byteUnderrun, Source.exhaust_eq hp]
  rfl

/-- A `DEC` step whose item is cut short. -/
theorem step_of_tooShort {p : Position} (hc : s.byteSource.pos ≤ s.byteSource.bytes.length) (hm : s.mode = .dec)
    (hp : s.phase = phaseOf p) (hd : decodeAt p s.byteSource.rest = .error .tooShort) :
    step s = .next (afterByteUnderrun s) := by
  have hf : fetch s = .error .tooShort := by rw [fetch, fetchPosition_of_phaseOf hp, hd]
  have hr : s.phase.running = true := by rw [hp, phaseOf_running]
  rw [step_of_dec hr hm, decStep_of_fetch_error hf, ← byteUnderrun_eq_afterByteUnderrun hc]
  rfl

/-- With legal `CHANNELS` a pixel takes `CHANNELS` bytes (R43). -/
theorem pixelSize_eq_toNat {c : Byte} (hc : Config.legalChannels c = true) : pixelSize c = c.toNat := by
  obtain rfl | rfl : c = 3 ∨ c = 4 := by simpa [Config.legalChannels] using hc
  · rfl
  · rfl

theorem nextPixel_eq_none (hc : Config.legalChannels s.channels = true)
    (hl : s.pixelSource.rest.length < s.channels.toNat) : nextPixel s = none := by
  refine Option.eq_none_iff_forall_ne_some.mpr fun cur h => ?_
  have hle := pixelSize_le_of_nextPixel h
  rw [pixelSize_eq_toNat hc] at hle
  omega

theorem encPixelStep_of_none (h : nextPixel s = none) : encPixelStep s = pixelUnderrun s := by
  simp [encPixelStep, h]

/-! ## Streams -/

/-- A source that reads may have moved on: the same bytes, the cursor no further back (R41, R47). -/
structure Source.Forward (src src' : Source) : Prop where
  bytes : src'.bytes = src.bytes
  pos : src.pos ≤ src'.pos

theorem Source.Forward.refl (src : Source) : src.Forward src := ⟨rfl, le_rfl⟩

theorem Source.Forward.advance (src : Source) (k : Nat) : src.Forward (src.advance k) := ⟨rfl, Nat.le_add_right _ _⟩

theorem Source.Forward.exhaust (src : Source) : src.Forward src.exhaust := ⟨rfl, le_max_left _ _⟩

/-- What a `DEC` pass may do to the streams: read bytes, append pixels (R58). -/
structure DecForward (s t : State) : Prop where
  byteSource : s.byteSource.Forward t.byteSource
  pixelSink : s.pixelSink <+: t.pixelSink
  pixelSource : t.pixelSource = s.pixelSource
  byteSink : t.byteSink = s.byteSink

/-- What an `ENC` pass may do to the streams: read pixels, append bytes (R58). -/
structure EncForward (s t : State) : Prop where
  pixelSource : s.pixelSource.Forward t.pixelSource
  byteSink : s.byteSink <+: t.byteSink
  byteSource : t.byteSource = s.byteSource
  pixelSink : t.pixelSink = s.pixelSink

theorem decHeader_forward (w h : U32) (c cs : Byte) (s : State) (k : Nat) :
    DecForward s (decHeader w h c cs (s.advance k)) := by
  cases hc : Config.legalChannels c with
  | true =>
    rw [decHeader_legal hc]
    exact ⟨.advance _ k, List.prefix_rfl, rfl, rfl⟩
  | false =>
    rw [decHeader_illegal hc]
    exact ⟨.advance _ k, List.prefix_rfl, rfl, rfl⟩

theorem replay_forward (n k : Nat) (s : State) : DecForward s (endOfPixels (replay n (s.advance k))) := by
  rw [endOfPixels_eq]
  cases n with
  | zero => exact ⟨.advance _ k, List.prefix_rfl, rfl, rfl⟩
  | succ n =>
    rw [replay_succ_eq]
    exact ⟨.advance _ k, List.prefix_append _ _, rfl, rfl⟩

theorem encHeader_forward (w h : U32) (c cs : Byte) (s : State) : EncForward s (encHeader w h c cs s) := by
  cases hc : Config.legalChannels c with
  | true =>
    rw [encHeader_legal hc]
    exact ⟨.refl _, List.prefix_append _ _, rfl, rfl⟩
  | false =>
    rw [encHeader_illegal hc]
    exact ⟨.refl _, List.prefix_rfl, rfl, rfl⟩

theorem encPixelStep_forward (s : State) : EncForward s (encPixelStep s) := by
  obtain ⟨-, e⟩ | ⟨-, e⟩ | ⟨cur, -, -, e⟩ := encPixelStep_cases s <;> rw [e]
  · exact ⟨.exhaust _, List.prefix_rfl, rfl, rfl⟩
  · rw [repeatPixel_eq]
    exact ⟨.advance _ _, List.prefix_append _ _, rfl, rfl⟩
  · rw [freshPixel_eq]
    exact ⟨.advance _ _, (List.prefix_append _ _).trans (List.prefix_append _ _), rfl, rfl⟩

/-- A step of a pass moves the source and the sink of its own mode, and those forward only. -/
theorem PassStep.forward (hst : PassStep s t) :
    (s.mode = .dec ∧ DecForward s t) ∨ (s.mode = .enc ∧ EncForward s t) := by
  cases hst with
  | underrun hm _ => exact .inl ⟨hm, .exhaust _, List.prefix_rfl, rfl, rfl⟩
  | badMagic hm _ _ | badPadding hm _ _ | readMarker hm _ _ =>
    exact .inl ⟨hm, .advance _ _, List.prefix_rfl, rfl, rfl⟩
  | readHeader w h c cs hm _ _ => exact .inl ⟨hm, decHeader_forward w h c cs s 14⟩
  | readPixel cur k hd _ =>
    rw [commit_eq]
    exact .inl ⟨hd.1, .advance _ k, List.prefix_append _ _, rfl, rfl⟩
  | readRun length hd _ _ => exact .inl ⟨hd.1, replay_forward _ 1 s⟩
  | writeHeader hm _ => exact .inr ⟨hm, encHeader_forward _ _ _ _ s⟩
  | takePixel he => exact .inr ⟨he.1, encPixelStep_forward s⟩
  | writeMarker hm _ => exact .inr ⟨hm, .refl _, List.prefix_append _ _, rfl, rfl⟩

end Sys2Proof.Machine

/-! # The statements of 20_memory.md -/

namespace Sys2Proof.Machine

/-- Settles O32: in each phase of a `DEC` pass the item is too short; in an `ENC` pass there is no next pixel. -/
theorem underrunAbandonsTheStep : Obligations.UnderrunAbandonsTheStep := by
  intro s
  refine ⟨fun hc hm hshort => ?_, fun hc he hlegal hl => ?_⟩
  · obtain ⟨hp, hl⟩ | ⟨hp, hmagic, hl⟩ | ⟨hp, hnil⟩ | ⟨hp, t, rest, hrest, hl⟩ | ⟨hp, hl⟩ := hshort
    · exact step_of_tooShort (p := .header) hc hm hp (decodeHeader_tooShort (by omega) (.inl hl))
    · exact step_of_tooShort (p := .header) hc hm hp (decodeHeader_tooShort hl (.inr hmagic))
    · exact step_of_tooShort (p := .chunk) hc hm hp (by rw [hnil]; rfl)
    · exact step_of_tooShort (p := .chunk) hc hm hp (by rw [hrest]; exact decodeChunk_tooShort hl)
    · exact step_of_tooShort (p := .marker) hc hm hp (decodeMarker_tooShort hl)
  · have hr : s.phase.running = true := by rw [he.2]; rfl
    rw [step_of_enc hr he.1, encStep_pixels he.2, encPixelStep_of_none (nextPixel_eq_none hlegal hl), pixelUnderrun,
      Source.exhaust_eq hc]
    rfl

/-- Settles O49, by the outcomes of a running pass: each moves the streams of its own mode forward. -/
theorem streamsOnlyGoForward : Obligations.StreamsOnlyGoForward := by
  intro s t hr hstep
  obtain ⟨hm, h⟩ | ⟨hm, h⟩ := (passStep_of_step hr hstep).forward
  · obtain ⟨⟨hbytes, hpos⟩, ⟨out, hout⟩, hsource, hsink⟩ := h
    exact ⟨hbytes, by rw [hsource], hpos, by rw [hsource], ⟨[], by rw [hsink, List.append_nil]⟩, ⟨out, hout.symm⟩,
      fun he => by simp [hm] at he, fun _ => ⟨hsource, hsink⟩⟩
  · obtain ⟨⟨hbytes, hpos⟩, ⟨out, hout⟩, hsource, hsink⟩ := h
    exact ⟨by rw [hsource], hbytes, by rw [hsource], hpos, ⟨out, hout.symm⟩, ⟨[], by rw [hsink, List.append_nil]⟩,
      fun _ => ⟨hsource, hsink⟩, fun hd => by simp [hm] at hd⟩

end Sys2Proof.Machine

/-! # Fields and bytes (R8, R41, R42, R76) -/

namespace Sys2Proof

/-- Fields that do not overlap are joined by adding them. -/
theorem ofNat_or_ofNat {k hi lo : Nat} (hhi : 2 ^ k ∣ hi) (hlo : lo < 2 ^ k) :
    BitVec.ofNat 8 hi ||| BitVec.ofNat 8 lo = BitVec.ofNat 8 (hi + lo) := by
  obtain ⟨a, rfl⟩ := hhi
  rw [← BitVec.ofNat_or, Nat.two_pow_add_eq_or_of_lt hlo]

theorem ofNat_shiftLeft (n k : Nat) : BitVec.ofNat 8 n <<< k = BitVec.ofNat 8 (n * 2 ^ k) := by
  apply BitVec.eq_of_toNat_eq
  simp [Nat.shiftLeft_eq]

/-- The stored form of a field that `unbias` reads (R76). -/
theorem bias_unbias (k : Int) (n : Nat) : bias k (unbias k n) = BitVec.ofNat 8 n := by
  rw [bias, unbias, Int.sub_add_cancel, BitVec.ofInt_natCast]

/-- A signed operand in its range is a field of its width, less the bias (R76). -/
theorem exists_unbias {k d : Int} {m : Nat} (hlo : -k ≤ d) (hhi : d < m - k) : ∃ n < m, d = unbias k n := by
  refine ⟨(d + k).toNat, by omega, ?_⟩
  unfold unbias
  omega

theorem unbias_add (k : Int) (n : Nat) : unbias k n + k = n := Int.sub_add_cancel _ _

/-- Big-endian reading undoes big-endian writing (R41, R42). -/
theorem be32_u32Bytes (v : U32) :
    be32 (v.extractLsb' 24 8) (v.extractLsb' 16 8) (v.extractLsb' 8 8) (v.extractLsb' 0 8) = v := by
  have join (start len : Nat) :
      v.extractLsb' (start + 8) len ++ v.extractLsb' start 8 = v.extractLsb' start (len + 8) :=
    BitVec.extractLsb'_append_extractLsb'_eq_extractLsb' rfl
  unfold be32
  rw [join 16 8, join 8 16, join 0 24]
  exact BitVec.extractLsb'_eq_self

/-- The bytes above the last one joined. -/
theorem extractLsb'_append_byte {n : Nat} (hi : BitVec n) (lo : Byte) (start : Nat) :
    (hi ++ lo).extractLsb' (start + 8) 8 = hi.extractLsb' start 8 := by
  rw [BitVec.extractLsb'_append_eq_of_le (Nat.le_add_left 8 start), Nat.add_sub_cancel]

/-- Big-endian writing undoes big-endian reading (R41, R42). -/
theorem u32Bytes_be32 (b0 b1 b2 b3 : Byte) : u32Bytes (be32 b0 b1 b2 b3) = [b0, b1, b2, b3] := by
  have h3 : (be32 b0 b1 b2 b3).extractLsb' 0 8 = b3 := BitVec.extractLsb'_append_eq_right
  have h2 : (be32 b0 b1 b2 b3).extractLsb' 8 8 = b2 :=
    (extractLsb'_append_byte (b0 ++ b1 ++ b2) b3 0).trans BitVec.extractLsb'_append_eq_right
  have h1 : (be32 b0 b1 b2 b3).extractLsb' 16 8 = b1 :=
    (extractLsb'_append_byte (b0 ++ b1 ++ b2) b3 8).trans <|
      (extractLsb'_append_byte (b0 ++ b1) b2 0).trans BitVec.extractLsb'_append_eq_right
  have h0 : (be32 b0 b1 b2 b3).extractLsb' 24 8 = b0 :=
    (extractLsb'_append_byte (b0 ++ b1 ++ b2) b3 16).trans <|
      (extractLsb'_append_byte (b0 ++ b1) b2 8).trans BitVec.extractLsb'_append_eq_left
  rw [u32Bytes, h0, h1, h2, h3]

/-! ## The bytes of each chunk (R70 to R75), signed operands given by their stored fields -/

theorem encode_index {slot : Nat} (h : slot < 64) : encode (.index slot) = [BitVec.ofNat 8 slot] := by
  rw [encode, ofNat_or_ofNat (k := 6) (Nat.dvd_zero _) h, Nat.zero_add]

theorem encode_diff {r g b : Nat} (hr : r < 4) (hg : g < 4) (hb : b < 4) :
    encode (.diff (unbias 2 r) (unbias 2 g) (unbias 2 b)) = [BitVec.ofNat 8 (0x40 + 16 * r + 4 * g + b)] := by
  rw [encode, bias_unbias, bias_unbias, bias_unbias, ofNat_shiftLeft, ofNat_shiftLeft,
    ofNat_or_ofNat (k := 6) (by omega) (by omega), ofNat_or_ofNat (k := 4) (by omega) (by omega),
    ofNat_or_ofNat (k := 2) (by omega) (by omega)]
  congr 2
  omega

theorem encode_luma {g r b : Nat} (hg : g < 64) (hb : b < 16) :
    encode (.luma (unbias 32 g) (unbias 8 r) (unbias 8 b)) =
      [BitVec.ofNat 8 (0x80 + g), BitVec.ofNat 8 (16 * r + b)] := by
  rw [encode, bias_unbias, bias_unbias, bias_unbias, ofNat_shiftLeft, ofNat_or_ofNat (k := 6) (by omega) hg,
    ofNat_or_ofNat (k := 4) (by omega) hb, Nat.mul_comm r]
  rfl

theorem encode_run {n : Nat} (h : n < 62) : encode (.run (n + 1)) = [BitVec.ofNat 8 (0xc0 + n)] := by
  rw [encode, Nat.add_sub_cancel, ofNat_or_ofNat (k := 6) (by omega) (by omega)]

theorem encode_length (i : Instr) : (encode i).length = i.length := by
  cases i with
  | index slot => exact Laws.EncodedLength.index slot
  | diff dr dg db => exact Laws.EncodedLength.diff dr dg db
  | luma dg drDg dbDg => exact Laws.EncodedLength.luma dg drDg dbDg
  | run length => exact Laws.EncodedLength.run length
  | rgb r g b => exact Laws.EncodedLength.rgb r g b
  | rgba r g b a => exact Laws.EncodedLength.rgba r g b a
  | header w h c cs => exact Laws.EncodedLength.header w h c cs
  | endMarker => exact Laws.EncodedLength.endMarker

/-! ## What the chunk decoder reads

`ReadChunk` lists what the tag dispatch of R69 selects and the numbers of the bytes it reads, one constructor for each
kind of chunk; `ReadChunk.decode` and `readChunk_of_decode` tie it to the decoder. -/

/-- These bytes begin with this chunk, its fields as numbers (R70 to R75). -/
inductive ReadChunk : List Byte → Instr → Prop where
  | index {t : Byte} {slot : Nat} (rest : List Byte) (ht : t.toNat = slot) (hslot : slot < 64) :
      ReadChunk (t :: rest) (.index slot)
  | diff {t : Byte} {r g b : Nat} (rest : List Byte) (ht : t.toNat = 0x40 + 16 * r + 4 * g + b) (hr : r < 4)
      (hg : g < 4) (hb : b < 4) : ReadChunk (t :: rest) (.diff (unbias 2 r) (unbias 2 g) (unbias 2 b))
  | luma {t u : Byte} {g r b : Nat} (rest : List Byte) (ht : t.toNat = 0x80 + g) (hu : u.toNat = 16 * r + b)
      (hg : g < 64) (hr : r < 16) (hb : b < 16) :
      ReadChunk (t :: u :: rest) (.luma (unbias 32 g) (unbias 8 r) (unbias 8 b))
  | run {t : Byte} {n : Nat} (rest : List Byte) (ht : t.toNat = 0xc0 + n) (hn : n < 62) :
      ReadChunk (t :: rest) (.run (n + 1))
  | rgb (r g b : Byte) (rest : List Byte) : ReadChunk (Config.tagRgb :: r :: g :: b :: rest) (.rgb r g b)
  | rgba (r g b a : Byte) (rest : List Byte) :
      ReadChunk (Config.tagRgba :: r :: g :: b :: a :: rest) (.rgba r g b a)

/-- A tag byte below `0xfe` passes the first two tests of R69. -/
theorem ne_literal_tags {t : Byte} (h : t.toNat < 0xfe) : t ≠ Config.tagRgb ∧ t ≠ Config.tagRgba := by
  constructor <;> rintro rfl <;> exact absurd h (by decide)

theorem literal_tags {t : Byte} (h : ¬t.toNat < 0xfe) : t = Config.tagRgb ∨ t = Config.tagRgba := by
  have hlt := t.isLt
  obtain h | h : t.toNat = 0xfe ∨ t.toNat = 0xff := by omega
  · exact .inl (BitVec.eq_of_toNat_eq h)
  · exact .inr (BitVec.eq_of_toNat_eq h)

/-- The tests of R69 on the tag byte, as numbers. -/
theorem tag_cases (t : Byte) :
    t.toNat < 0x40 ∨ (0x40 ≤ t.toNat ∧ t.toNat < 0x80) ∨ (0x80 ≤ t.toNat ∧ t.toNat < 0xc0) ∨
      (0xc0 ≤ t.toNat ∧ t.toNat < 0xfe) ∨ t = Config.tagRgb ∨ t = Config.tagRgba := by
  by_cases h : t.toNat < 0xfe
  · omega
  · have := literal_tags h
    tauto

/-- The length table of R77. -/
theorem chunkLength_eq (t : Byte) :
    chunkLength t = if t.toNat ≤ 0x7f then 1 else if t.toNat ≤ 0xbf then 2 else if t.toNat ≤ 0xfd then 1
      else if t.toNat = 0xfe then 4 else 5 := by
  by_cases h : t.toNat < 0xfe
  · obtain ⟨hrgb, hrgba⟩ := ne_literal_tags h
    simp only [chunkLength, if_neg hrgb, if_neg hrgba, bits_eq]
    split_ifs <;> omega
  · obtain rfl | rfl := literal_tags h <;> rfl

/-- What is listed is what the decoder answers. -/
theorem ReadChunk.decode {bs : List Byte} {i : Instr} (h : ReadChunk bs i) : decodeChunk bs = .ok i := by
  cases h with
  | rgb | rgba => rfl
  | @index t slot rest ht hslot =>
    obtain ⟨hrgb, hrgba⟩ := ne_literal_tags (t := t) (by omega)
    have hkind : bits t 6 2 = 0 := by rw [bits_eq]; omega
    have hfield : bits t 0 6 = slot := by rw [bits_eq]; omega
    simp [decodeChunk, hrgb, hrgba, hkind, hfield]
  | @diff t r g b rest ht hr hg hb =>
    obtain ⟨hrgb, hrgba⟩ := ne_literal_tags (t := t) (by omega)
    have hkind : bits t 6 2 = 1 := by rw [bits_eq]; omega
    have hred : bits t 4 2 = r := by rw [bits_eq]; omega
    have hgreen : bits t 2 2 = g := by rw [bits_eq]; omega
    have hblue : bits t 0 2 = b := by rw [bits_eq]; omega
    simp [decodeChunk, hrgb, hrgba, hkind, hred, hgreen, hblue]
  | @luma t u g r b rest ht hu hg hr hb =>
    obtain ⟨hrgb, hrgba⟩ := ne_literal_tags (t := t) (by omega)
    have hkind : bits t 6 2 = 2 := by rw [bits_eq]; omega
    have hgreen : bits t 0 6 = g := by rw [bits_eq]; omega
    have hred : bits u 4 4 = r := by rw [bits_eq]; omega
    have hblue : bits u 0 4 = b := by rw [bits_eq]; omega
    simp [decodeChunk, hrgb, hrgba, hkind, hgreen, hred, hblue]
  | @run t n rest ht hn =>
    obtain ⟨hrgb, hrgba⟩ := ne_literal_tags (t := t) (by omega)
    have hkind : bits t 6 2 = 3 := by rw [bits_eq]; omega
    have hfield : bits t 0 6 = n := by rw [bits_eq]; omega
    simp [decodeChunk, hrgb, hrgba, hkind, hfield]

theorem ReadChunk.decodeAt {bs : List Byte} {i : Instr} (h : ReadChunk bs i) : decodeAt .chunk bs = .ok i := h.decode

/-! Every tag byte begins a chunk of the list, the bytes it needs being there (R77, R78). -/

theorem ReadChunk.of_index_tag {t : Byte} (h : t.toNat < 0x40) (rest : List Byte) :
    ReadChunk (t :: rest) (.index t.toNat) :=
  .index rest rfl h

theorem ReadChunk.of_diff_tag {t : Byte} (hlo : 0x40 ≤ t.toNat) (hhi : t.toNat < 0x80) (rest : List Byte) :
    ReadChunk (t :: rest) (.diff (unbias 2 (t.toNat / 16 % 4)) (unbias 2 (t.toNat / 4 % 4)) (unbias 2 (t.toNat % 4))) :=
  .diff rest (by omega) (by omega) (by omega) (by omega)

theorem ReadChunk.of_luma_tag {t : Byte} (hlo : 0x80 ≤ t.toNat) (hhi : t.toNat < 0xc0) (u : Byte) (rest : List Byte) :
    ReadChunk (t :: u :: rest)
      (.luma (unbias 32 (t.toNat % 64)) (unbias 8 (u.toNat / 16)) (unbias 8 (u.toNat % 16))) :=
  .luma rest (by omega) (by omega) (by omega) (by omega) (by omega)

theorem ReadChunk.of_run_tag {t : Byte} (hlo : 0xc0 ≤ t.toNat) (hhi : t.toNat < 0xfe) (rest : List Byte) :
    ReadChunk (t :: rest) (.run (t.toNat % 64 + 1)) :=
  .run rest (by omega) (by omega)

/-- With as many bytes as the tag asks for there is a chunk. -/
theorem exists_readChunk {t : Byte} {rest : List Byte} (h : chunkLength t ≤ rest.length + 1) :
    ∃ i, ReadChunk (t :: rest) i := by
  obtain ht | ⟨hlo, hhi⟩ | ⟨hlo, hhi⟩ | ⟨hlo, hhi⟩ | rfl | rfl := tag_cases t
  · exact ⟨_, .of_index_tag ht rest⟩
  · exact ⟨_, .of_diff_tag hlo hhi rest⟩
  · have hlen : chunkLength t = 2 := by
      rw [chunkLength_eq, if_neg (by omega), if_pos (by omega)]
    match rest with
    | [] => simp [hlen] at h
    | u :: rest => exact ⟨_, .of_luma_tag hlo hhi u rest⟩
  · exact ⟨_, .of_run_tag hlo hhi rest⟩
  · match rest with
    | r :: g :: b :: rest => exact ⟨_, .rgb r g b rest⟩
    | [] | [_] | [_, _] => exact absurd h (by simp [chunkLength])
  · match rest with
    | r :: g :: b :: a :: rest => exact ⟨_, .rgba r g b a rest⟩
    | [] | [_] | [_, _] | [_, _, _] => exact absurd h (by simp [chunkLength, Config.tagRgb, Config.tagRgba])

/-- The list is complete. -/
theorem readChunk_of_decode {bs : List Byte} {i : Instr} (h : decodeChunk bs = .ok i) : ReadChunk bs i := by
  cases bs with
  | nil => cases h
  | cons t rest =>
    obtain ⟨j, hj⟩ := exists_readChunk (t := t) (rest := rest) (length_eq_chunkLength h ▸ (decodeChunk_ok h).2)
    obtain rfl : j = i := Except.ok.inj (hj.decode.symm.trans h)
    exact hj

theorem toNat_ofNat_byte {n : Nat} (h : n < 256) : (BitVec.ofNat 8 n).toNat = n :=
  (BitVec.toNat_ofNat n 8).trans (Nat.mod_eq_of_lt h)

/-- A byte is the word of its number. -/
theorem ofNat_of_toNat_eq {t : Byte} {n : Nat} (h : t.toNat = n) : BitVec.ofNat 8 n = t := by
  rw [← h, BitVec.ofNat_toNat, BitVec.setWidth_eq]

/-- The bytes a chunk was read from begin with its encoding. -/
theorem ReadChunk.encode_prefix {bs : List Byte} {i : Instr} (h : ReadChunk bs i) : encode i <+: bs := by
  cases h with
  | index rest ht hslot => exact ⟨rest, by rw [encode_index hslot, ofNat_of_toNat_eq ht]; rfl⟩
  | diff rest ht hr hg hb => exact ⟨rest, by rw [encode_diff hr hg hb, ofNat_of_toNat_eq ht]; rfl⟩
  | luma rest ht hu hg hr hb =>
    exact ⟨rest, by rw [encode_luma hg hb, ofNat_of_toNat_eq ht, ofNat_of_toNat_eq hu]; rfl⟩
  | run rest ht hn => exact ⟨rest, by rw [encode_run hn, ofNat_of_toNat_eq ht]; rfl⟩
  | rgb r g b rest | rgba r g b a rest => exact ⟨rest, rfl⟩

/-- A well-formed chunk is read from its encoding, whatever follows. -/
theorem readChunk_encode {i : Instr} (hw : i.wf = true) (hp : i.position = .chunk) (rest : List Byte) :
    ReadChunk (encode i ++ rest) i := by
  cases i with
  | header | endMarker => cases hp
  | rgb r g b => exact .rgb r g b rest
  | rgba r g b a => exact .rgba r g b a rest
  | index slot =>
    have hslot : slot < 64 := by simpa [Instr.wf] using hw
    rw [encode_index hslot]
    exact .index rest (toNat_ofNat_byte (by omega)) hslot
  | diff dr dg db =>
    simp only [Instr.wf, inRange, Bool.and_eq_true, decide_eq_true_eq] at hw
    obtain ⟨⟨⟨hrlo, hrhi⟩, hglo, hghi⟩, hblo, hbhi⟩ := hw
    obtain ⟨r, hr, rfl⟩ := exists_unbias (m := 4) hrlo (by omega)
    obtain ⟨g, hg, rfl⟩ := exists_unbias (m := 4) hglo (by omega)
    obtain ⟨b, hb, rfl⟩ := exists_unbias (m := 4) hblo (by omega)
    rw [encode_diff hr hg hb]
    exact .diff rest (toNat_ofNat_byte (by omega)) hr hg hb
  | luma dg drDg dbDg =>
    simp only [Instr.wf, inRange, Bool.and_eq_true, decide_eq_true_eq] at hw
    obtain ⟨⟨⟨hglo, hghi⟩, hrlo, hrhi⟩, hblo, hbhi⟩ := hw
    obtain ⟨g, hg, rfl⟩ := exists_unbias (m := 64) hglo (by omega)
    obtain ⟨r, hr, rfl⟩ := exists_unbias (m := 16) hrlo (by omega)
    obtain ⟨b, hb, rfl⟩ := exists_unbias (m := 16) hblo (by omega)
    rw [encode_luma hg hb]
    exact .luma rest (toNat_ofNat_byte (by omega)) (toNat_ofNat_byte (by omega)) hg hr hb
  | run length =>
    simp only [Instr.wf, Bool.and_eq_true, decide_eq_true_eq] at hw
    obtain ⟨n, rfl⟩ := Nat.exists_eq_add_of_le' hw.1
    have hn : n < 62 := by omega
    rw [encode_run hn]
    exact .run rest (toNat_ofNat_byte (by omega)) hn

/-! ## The header and the end marker (R66, R67) -/

theorem decodeHeader_encode (w h : U32) (c cs : Byte) (rest : List Byte) :
    decodeHeader (encode (.header w h c cs) ++ rest) = .ok (.header w h c cs) := by
  have hread : decodeHeader (encode (.header w h c cs) ++ rest) = .ok (.header
      (be32 (w.extractLsb' 24 8) (w.extractLsb' 16 8) (w.extractLsb' 8 8) (w.extractLsb' 0 8))
      (be32 (h.extractLsb' 24 8) (h.extractLsb' 16 8) (h.extractLsb' 8 8) (h.extractLsb' 0 8)) c cs) := rfl
  rw [hread, be32_u32Bytes, be32_u32Bytes]

theorem decodeMarker_encode (rest : List Byte) : decodeMarker (encode .endMarker ++ rest) = .ok .endMarker := by
  simp [decodeMarker, encode, Config.endMarker]

theorem encode_prefix_of_decodeHeader {bs : List Byte} {i : Instr} (h : decodeHeader bs = .ok i) : encode i <+: bs := by
  unfold decodeHeader at h
  split at h
  case h_2 => cases h
  next m0 m1 m2 m3 _ =>
  split at h
  case isFalse => cases h
  next hmagic =>
  split at h <;> cases h
  next w0 w1 w2 w3 h0 h1 h2 h3 c cs rest =>
  refine ⟨rest, ?_⟩
  rw [encode, u32Bytes_be32, u32Bytes_be32, ← hmagic]
  rfl

theorem encode_prefix_of_decodeMarker {bs : List Byte} {i : Instr} (h : decodeMarker bs = .ok i) : encode i <+: bs := by
  obtain ⟨rfl, -⟩ := decodeMarker_ok h
  unfold decodeMarker at h
  split at h
  case isTrue => cases h
  split at h
  case isFalse => cases h
  next hbytes =>
  rw [encode, ← hbytes]
  exact List.take_prefix 8 bs

/-- Any item is read from bytes that begin with its encoding. -/
theorem encode_prefix_of_decodeAt {p : Position} {bs : List Byte} {i : Instr} (h : decodeAt p bs = .ok i) :
    encode i <+: bs := by
  cases p with
  | header => exact encode_prefix_of_decodeHeader h
  | chunk => exact (readChunk_of_decode h).encode_prefix
  | marker => exact encode_prefix_of_decodeMarker h

end Sys2Proof

/-! # The statements of 30_encoding.md -/

namespace Sys2Proof

/-- Settles O5: a chunk is in the list of `ReadChunk`; the header and the end marker are read byte by byte. -/
theorem decodeInvertsEncode : Obligations.DecodeInvertsEncode := by
  intro i rest hw
  cases hp : i.position with
  | chunk => exact (readChunk_encode hw hp rest).decodeAt
  | header =>
    cases i with
    | header w h c cs => exact decodeHeader_encode w h c cs rest
    | index | diff | luma | run | rgb | rgba | endMarker => cases hp
  | marker =>
    cases i with
    | endMarker => exact decodeMarker_encode rest
    | index | diff | luma | run | rgb | rgba | header => cases hp

/-- Settles O2: each range of tag bytes begins the chunk that `ReadChunk` lists for it. -/
theorem tagDispatchInOrder : Obligations.TagDispatchInOrder := by
  intro t b1 b2 b3 b4 rest
  refine ⟨?_, ?_, fun hrgb hrgba => ⟨fun h => ?_, fun h => ?_, fun h => ?_, fun h => ?_⟩⟩
  · rintro rfl
    exact (ReadChunk.rgb b1 b2 b3 _).decodeAt
  · rintro rfl
    exact (ReadChunk.rgba b1 b2 b3 b4 _).decodeAt
  · rw [Nat.mod_eq_of_lt (by omega)]
    exact (ReadChunk.of_index_tag (by omega) _).decodeAt
  · exact ⟨_, _, _, (ReadChunk.of_diff_tag (by omega) (by omega) _).decodeAt⟩
  · exact (ReadChunk.of_luma_tag (by omega) (by omega) b1 _).decodeAt
  · have hlt : t.toNat < 0xfe := by bv_omega
    exact (ReadChunk.of_run_tag (by omega) hlt _).decodeAt

/-- Settles O4: with enough bytes there is a chunk of `ReadChunk`, whose length is the tag's. -/
theorem everyTagHasAKindAndALength : Obligations.EveryTagHasAKindAndALength := by
  intro t rest
  refine ⟨chunkLength_eq t, fun hl => ?_, decodeChunk_tooShort⟩
  obtain ⟨i, hi⟩ := exists_readChunk hl
  exact ⟨i, hi.decodeAt, length_eq_chunkLength hi.decode⟩

/-- Settles O6: the bytes begin with the encoding, which is as long as the item. -/
theorem encodeInvertsDecode : Obligations.EncodeInvertsDecode := by
  intro p bs i h
  refine ⟨decodeAt_wf h, (decodeAt_ok h).1, ?_⟩
  rw [← encode_length]
  exact List.prefix_iff_eq_take.mp (encode_prefix_of_decodeAt h)

/-- Settles O7: signed operands are stored fields less their bias, and stored fields are joined by adding. -/
theorem encodedByteValues : Obligations.EncodedByteValues := by
  refine ⟨fun slot h => encode_index h, fun dr dg db hrlo hrhi hglo hghi hblo hbhi => ?_,
    fun dg drDg dbDg hglo hghi hrlo hrhi hblo hbhi => ?_, fun length h1 h62 => ?_, fun _ _ _ => rfl,
    fun _ _ _ _ => rfl⟩
  · obtain ⟨r, hr, rfl⟩ := exists_unbias (m := 4) hrlo (by omega)
    obtain ⟨g, hg, rfl⟩ := exists_unbias (m := 4) hglo (by omega)
    obtain ⟨b, hb, rfl⟩ := exists_unbias (m := 4) hblo (by omega)
    rw [encode_diff hr hg hb, unbias_add, unbias_add, unbias_add, ← BitVec.ofInt_natCast]
    push_cast
    rfl
  · obtain ⟨g, hg, rfl⟩ := exists_unbias (m := 64) hglo (by omega)
    obtain ⟨r, hr, rfl⟩ := exists_unbias (m := 16) hrlo (by omega)
    obtain ⟨b, hb, rfl⟩ := exists_unbias (m := 16) hblo (by omega)
    rw [encode_luma hg hb, unbias_add, unbias_add, unbias_add, ← BitVec.ofInt_natCast, ← BitVec.ofInt_natCast]
    push_cast
    rfl
  · obtain ⟨n, rfl⟩ := Nat.exists_eq_add_of_le' h1
    exact encode_run (by omega)

/-- Settles O1: the words are literal, so the decoder computes each item. -/
theorem writtenOutWordsDecode : Obligations.WrittenOutWordsDecode :=
  ⟨rfl, rfl, rfl, rfl, rfl, rfl, rfl, rfl, rfl⟩

/-- Settles O3: a tag of the Diff family begins the chunk with these three fields. -/
theorem diffFieldPositions : Obligations.DiffFieldPositions := by
  intro t rest hlo hhi
  exact (ReadChunk.of_diff_tag hlo (by omega) rest).decodeAt

end Sys2Proof

/-! # Hash, channels, pixel bytes and the header's fields (R41, R90, R93, R94, R102) -/

namespace Sys2Proof

/-- Big-endian: the first byte weighs most (R41). -/
theorem toNat_be32 (b0 b1 b2 b3 : Byte) : (be32 b0 b1 b2 b3).toNat =
    b0.toNat * 2 ^ 24 + b1.toNat * 2 ^ 16 + b2.toNat * 2 ^ 8 + b3.toNat := by
  have join {n : Nat} (hi : BitVec n) (lo : Byte) : (hi ++ lo).toNat = hi.toNat * 2 ^ 8 + lo.toNat := by
    rw [BitVec.toNat_append, ← Nat.shiftLeft_add_eq_or_of_lt lo.isLt, Nat.shiftLeft_eq]
  rw [be32, join, join, join]
  omega

/-- Four bytes read as one number. -/
theorem eq_be32 {v : U32} {b0 b1 b2 b3 : Byte}
    (h : v.toNat = b0.toNat * 2 ^ 24 + b1.toNat * 2 ^ 16 + b2.toNat * 2 ^ 8 + b3.toNat) : v = be32 b0 b1 b2 b3 :=
  BitVec.eq_of_toNat_eq (h.trans (toNat_be32 b0 b1 b2 b3).symm)

/-! ## What the framing decoders answer (R66, R67, R100, R101) -/

theorem decodeHeader_magic (w0 w1 w2 w3 h0 h1 h2 h3 c cs : Byte) (rest : List Byte) :
    decodeHeader (0x71 :: 0x6f :: 0x69 :: 0x66 :: w0 :: w1 :: w2 :: w3 :: h0 :: h1 :: h2 :: h3 :: c :: cs :: rest) =
      .ok (.header (be32 w0 w1 w2 w3) (be32 h0 h1 h2 h3) c cs) := rfl

theorem decodeHeader_badMagic {m0 m1 m2 m3 : Byte} (h : [m0, m1, m2, m3] ≠ Config.magic) (rest : List Byte) :
    decodeHeader (m0 :: m1 :: m2 :: m3 :: rest) = .error .badMagic :=
  if_neg h

theorem decodeMarker_endMarker {bs : List Byte} (hl : 8 ≤ bs.length) (h : bs.take 8 = Config.endMarker) :
    decodeMarker bs = .ok .endMarker := by
  rw [decodeMarker, if_neg (Nat.not_lt.mpr hl), if_pos h]

theorem decodeMarker_badPadding {bs : List Byte} (hl : 8 ≤ bs.length) (h : bs.take 8 ≠ Config.endMarker) :
    decodeMarker bs = .error .badPadding := by
  rw [decodeMarker, if_neg (Nat.not_lt.mpr hl), if_neg h]

end Sys2Proof

namespace Sys2Proof.Machine

variable {s : State}

/-! ## Channel arithmetic (R93, R94, D3) -/

theorem wrap8_toNat (c : Byte) : wrap8 c.toNat = c := by
  rw [wrap8, BitVec.ofInt_natCast, ofNat_of_toNat_eq rfl]

theorem wrap8_add (x y : Int) : wrap8 (x + y) = wrap8 x + wrap8 y := BitVec.ofInt_add x y

theorem wrap8_sub (x y : Int) : wrap8 (x - y) = wrap8 x - wrap8 y := by
  rw [BitVec.eq_sub_iff_add_eq, ← wrap8_add, Int.sub_add_cancel]

/-- A channel sum is addition of bytes. -/
theorem addDelta_eq (c : Byte) (d : Int) : addDelta c d = c + wrap8 d := by
  rw [addDelta, wrap8_add, wrap8_toNat]

/-- A channel difference is the signed reading of subtraction of bytes. -/
theorem delta_eq (cur prev : Byte) : delta cur prev = (cur - prev).toInt := by
  rw [delta, s8, wrap8_sub, wrap8_toNat, wrap8_toNat]

theorem toNat_addDelta (c : Byte) (d : Int) : ((addDelta c d).toNat : Int) = (c.toNat + d) % 256 := by
  rw [addDelta, wrap8, BitVec.toNat_ofInt]
  exact Int.toNat_of_nonneg (Int.emod_nonneg _ (by decide))

/-- The one delta in -128..127 that leads from `prev` to `cur` is their difference. -/
theorem addDelta_eq_iff {prev cur : Byte} {d : Int} (hlo : -128 ≤ d) (hhi : d ≤ 127) :
    addDelta prev d = cur ↔ d = delta cur prev := by
  have hd : (wrap8 d).toInt = d := BitVec.toInt_ofInt_eq_self (by decide) hlo (Int.lt_add_one_of_le hhi)
  calc addDelta prev d = cur
      ↔ wrap8 d = cur - prev := by rw [addDelta_eq, BitVec.eq_sub_iff_add_eq, BitVec.add_comm]
    _ ↔ d = delta cur prev := by rw [← BitVec.toInt_inj, hd, delta_eq]

/-! ## The hash and the bytes of a pixel (R90, R102) -/

theorem hashPixel_val (p : Pixel) :
    (hashPixel p).val = (p.r.toNat * 3 + p.g.toNat * 5 + p.b.toNat * 7 + p.a.toNat * 11) % 64 := rfl

theorem pixelBytes_three (p : Pixel) : pixelBytes 3 p = [p.r, p.g, p.b] := rfl

theorem pixelBytes_four (p : Pixel) : pixelBytes 4 p = [p.r, p.g, p.b, p.a] := rfl

/-! ## The header step as one record (R98, R100, R164) -/

theorem legalChannels_iff {c : Byte} : Config.legalChannels c = true ↔ c = 3 ∨ c = 4 := by
  simp [Config.legalChannels]

theorem phaseAfterHeader_pixelBudget (w h : U32) :
    phaseAfterHeader (pixelBudget w h) = if w.toNat * h.toNat = 0 then .padding else .pixels := by
  have hzero : pixelBudget w h = 0 ↔ w.toNat * h.toNat = 0 := by
    rw [← pixelBudget_toNat, ← BitVec.toNat_inj]
    rfl
  simp only [phaseAfterHeader, hzero]

/-- All that a decoder header step does once its bytes are read. -/
theorem decHeader_eq (w h : U32) (c cs : Byte) (s : State) : decHeader w h c cs s =
    if c = 3 ∨ c = 4 then
      { s with
        width := w, height := h, channels := c, colorspace := cs, headerValid := true
        n := BitVec.ofNat 64 (w.toNat * h.toNat)
        phase := if w.toNat * h.toNat = 0 then .padding else .pixels }
    else
      { s with
        width := w, height := h, channels := c, colorspace := cs, headerValid := true
        result := false, cause := .badChannels, phase := .fault } := by
  split
  · next hc =>
    rw [decHeader_legal (legalChannels_iff.mpr hc), phaseAfterHeader_pixelBudget]
    rfl
  · next hc =>
    rw [decHeader_illegal (Bool.eq_false_iff.mpr (hc ∘ legalChannels_iff.mp))]
    rfl

/-- All that an encoder header step does. -/
theorem encHeader_eq (w h : U32) (c cs : Byte) (s : State) : encHeader w h c cs s =
    if c = 3 ∨ c = 4 then
      { s with
        byteSink := s.byteSink ++ [0x71, 0x6f, 0x69, 0x66] ++ u32Bytes w ++ u32Bytes h ++ [c, cs]
        n := BitVec.ofNat 64 (w.toNat * h.toNat)
        phase := if w.toNat * h.toNat = 0 then .padding else .pixels }
    else { s with result := false, cause := .badChannels, phase := .fault } := by
  split
  · next hc =>
    rw [encHeader_legal (legalChannels_iff.mpr hc), phaseAfterHeader_pixelBudget]
    simp [encode, Config.magic, pixelBudget]
  · next hc =>
    rw [encHeader_illegal (Bool.eq_false_iff.mpr (hc ∘ legalChannels_iff.mp))]
    rfl

/-! ## A framing step of a `DEC` pass -/

theorem exec_dec_endMarker (hp : s.phase = .padding) (hm : s.mode = .dec) :
    exec .endMarker s = .next (succeed s) :=
  (exec_endMarker s).trans (perform_dec rfl hp hm)

/-- A `DEC` step on bytes that decode to an item of its phase. -/
theorem step_of_item {i : Instr} (hm : s.mode = .dec) (hp : s.phase = phaseOf i.position)
    (hd : decodeAt i.position s.byteSource.rest = .ok i) : step s = exec i (s.advance i.length) :=
  stepRunsTheDecodedItem s i hm hp hd

/-- A `DEC` step on bytes that are no item of its phase. -/
theorem step_of_rejected {p : Position} {r : Reject} (hm : s.mode = .dec) (hp : s.phase = phaseOf p)
    (hd : decodeAt p s.byteSource.rest = .error r) : step s = .next (rejected r s) := by
  have hf : fetch s = .error r := by rw [fetch, fetchPosition_of_phaseOf hp, hd]
  have hr : s.phase.running = true := by rw [hp, phaseOf_running]
  exact (step_of_dec hr hm).trans (decStep_of_fetch_error hf)

end Sys2Proof.Machine

/-! # The statements of 40_common.md -/

namespace Sys2Proof.Machine

/-- Settles O10: sums and differences of channels are those of bytes, the difference read as signed. -/
theorem deltasInvertWrappingSums : Obligations.DeltasInvertWrappingSums := by
  intro prev cur
  refine ⟨?_, ?_, ?_, fun d => ⟨toNat_addDelta prev d, addDelta_eq_iff⟩⟩
  · rw [delta_eq, BitVec.toInt_eq_toNat_cond, BitVec.toNat_sub]
    have hcur := cur.isLt
    have hprev := prev.isLt
    omega
  · rw [delta_eq]
    exact BitVec.le_toInt _
  · rw [delta_eq]
    exact Int.le_of_lt_add_one (BitVec.toInt_lt)

/-- Settles O25: the bytes are a header, a bad magic, or too short before or after the magic. -/
theorem decoderHeaderStep : Obligations.DecoderHeaderStep := by
  intro s hm hp hc
  refine ⟨fun w0 w1 w2 w3 h0 h1 h2 h3 c cs rest hrest w h hw hh => ?_, fun m0 m1 m2 m3 rest hrest hne => ?_,
    fun rest hrest hl => ?_, fun hl => ?_⟩
  · obtain rfl := eq_be32 hw
    obtain rfl := eq_be32 hh
    have hd : decodeAt .header s.byteSource.rest = .ok (.header (be32 w0 w1 w2 w3) (be32 h0 h1 h2 h3) c cs) := by
      rw [hrest]
      exact decodeHeader_magic w0 w1 w2 w3 h0 h1 h2 h3 c cs rest
    rw [step_of_item (i := .header ..) hm hp hd, exec_dec_header (s := s.advance _) hp hm, decHeader_eq]
    rfl
  · exact step_of_rejected (p := .header) hm hp (by rw [hrest]; exact decodeHeader_badMagic hne rest)
  · have hshort : s.byteSource.rest.length < 14 := by
      simp only [hrest, List.length_cons]
      omega
    exact step_of_tooShort (p := .header) hc hm hp (decodeHeader_tooShort hshort (.inr (by rw [hrest]; rfl)))
  · exact step_of_tooShort (p := .header) hc hm hp (decodeHeader_tooShort (by omega) (.inl hl))

/-- Settles O8: the formula is the definition, the examples are literal pixels. -/
theorem historyHashFormula : Obligations.HistoryHashFormula :=
  ⟨hashPixel_val, by decide⟩

/-- Settles O9: 64 divides 256, so wrapping at 8 bits on the way changes nothing modulo 64. -/
theorem hashInWrappingBytes : Obligations.HashInWrappingBytes := by
  intro p
  rw [hashPixel_val]
  simp only [BitVec.toNat_add, BitVec.toNat_mul, BitVec.reduceToNat]
  omega

/-- Settles O11: the pixel is written as `pixelBytes` of the channel count. -/
theorem pixelOutputBytes : Obligations.PixelOutputBytes := by
  intro s p
  refine ⟨fun hc => ?_, fun hc => ?_⟩
  · rw [State.pixEmit, hc, pixelBytes_three]
  · rw [State.pixEmit, hc, pixelBytes_four]

/-- Settles O19: in its phase of a `DEC` pass a Header runs. -/
theorem headerExecutes : Obligations.HeaderExecutes := by
  intro s w h c cs hm hp
  rw [exec_dec_header hp hm, decHeader_eq]

/-- Settles O20: in its phase of a `DEC` pass an End runs. -/
theorem endExecutes : Obligations.EndExecutes := fun _ hm hp => exec_dec_endMarker hp hm

/-- Settles O31: the bytes are too short, the end marker, or eight others. -/
theorem decoderPaddingStep : Obligations.DecoderPaddingStep := by
  intro s hm hp hc
  refine ⟨fun hl => step_of_tooShort (p := .marker) hc hm hp (decodeMarker_tooShort hl), fun hl => ?_⟩
  split
  · next h =>
    rw [step_of_item (i := .endMarker) hm hp (decodeMarker_endMarker hl h), exec_dec_endMarker (s := s.advance _) hp hm]
    rfl
  · next h => exact step_of_rejected (p := .marker) hm hp (decodeMarker_badPadding hl h)

/-- Settles O33: the header registers are the operands, so the step is `encHeader` of them. -/
theorem encoderHeaderStep : Obligations.EncoderHeaderStep := by
  intro s hm hp
  rw [step_of_enc (by rw [hp]; rfl) hm, encStep_header hm hp, encHeader_eq]

/-- Settles O34: the end marker is emitted and the pass succeeds. -/
theorem encoderEndMarkerStep : Obligations.EncoderEndMarkerStep := by
  intro s hm hp
  rw [step_of_enc (by rw [hp]; rfl) hm, encStep_padding hm hp]
  rfl

end Sys2Proof.Machine

/-! # The chunks the encoder writes for a pixel (R112 to R120, R123) -/

namespace Sys2Proof

/-- A run length that fits its six bits, as the tag byte stores it (R73). -/
theorem encode_run_of_le {length : Nat} (h1 : 1 ≤ length) (h64 : length ≤ 64) :
    encode (.run length) = [BitVec.ofNat 8 (0xc0 + (length - 1))] := by
  rw [encode, ofNat_or_ofNat (k := 6) (by omega) (by omega)]

end Sys2Proof

namespace Sys2Proof.Machine

variable {s : State} {cur prev : Pixel}

/-! ## The literal chunk of a pixel (R117 to R120) -/

theorem diffFits_iff {dr dg db : Int} :
    diffFits dr dg db = true ↔ -2 ≤ dr ∧ dr ≤ 1 ∧ -2 ≤ dg ∧ dg ≤ 1 ∧ -2 ≤ db ∧ db ≤ 1 := by
  simp [diffFits, and_assoc]

theorem lumaFits_iff {dr dg db : Int} :
    lumaFits dr dg db = true ↔
      -32 ≤ dg ∧ dg ≤ 31 ∧ -8 ≤ dr - dg ∧ dr - dg ≤ 7 ∧ -8 ≤ db - dg ∧ db - dg ≤ 7 := by
  simp [lumaFits, and_assoc]

/-- `LiteralChoice prev cur dr dg db i`: of the chunks that code `cur` by its differences from `prev` or by its channels,
`i` is the first that applies (R123). -/
inductive LiteralChoice (prev cur : Pixel) (dr dg db : Int) : Instr → Prop where
  | diff : cur.a = prev.a → diffFits dr dg db = true → LiteralChoice prev cur dr dg db (.diff dr dg db)
  | luma : cur.a = prev.a → diffFits dr dg db = false → lumaFits dr dg db = true →
      LiteralChoice prev cur dr dg db (.luma dg (dr - dg) (db - dg))
  | rgb : cur.a = prev.a → diffFits dr dg db = false → lumaFits dr dg db = false →
      LiteralChoice prev cur dr dg db (.rgb cur.r cur.g cur.b)
  | rgba : cur.a ≠ prev.a → LiteralChoice prev cur dr dg db (.rgba cur.r cur.g cur.b cur.a)

theorem literalChunk_choice (prev cur : Pixel) :
    LiteralChoice prev cur (delta cur.r prev.r) (delta cur.g prev.g) (delta cur.b prev.b) (literalChunk prev cur) := by
  unfold literalChunk
  dsimp only
  split
  · next ha =>
    split
    · next hd => exact .diff ha hd
    · next hd =>
      rw [Bool.not_eq_true] at hd
      split
      · next hl => exact .luma ha hd hl
      · next hl => exact .rgb ha hd (Bool.eq_false_iff.mpr hl)
  · next ha => exact .rgba ha

theorem LiteralChoice.wf {dr dg db : Int} {i : Instr} (h : LiteralChoice prev cur dr dg db i) :
    i.wf = true ∧ i.position = .chunk := by
  cases h with
  | rgb | rgba => exact ⟨rfl, rfl⟩
  | diff _ hd => exact ⟨by simpa [Instr.wf, inRange, and_assoc] using diffFits_iff.mp hd, rfl⟩
  | luma _ _ hl => exact ⟨by simpa [Instr.wf, inRange, and_assoc] using lumaFits_iff.mp hl, rfl⟩

/-- A literal chunk is at most the pixel's own bytes and a tag, Rgba being for a changed alpha (R49). -/
theorem LiteralChoice.length_le {dr dg db : Int} {i : Instr} (h : LiteralChoice prev cur dr dg db i) :
    i.length ≤ if cur.a = prev.a then 4 else 5 := by
  cases h with
  | diff ha | luma ha | rgb ha =>
    rw [if_pos ha]
    simp [Instr.length]
  | rgba ha => rw [if_neg ha, Instr.length]

/-- The bytes of the literal chunk, in the order of R123. -/
theorem LiteralChoice.encode_eq {dr dg db : Int} {i : Instr} (h : LiteralChoice prev cur dr dg db i) :
    encode i =
      if cur.a = prev.a then
        if -2 ≤ dr ∧ dr ≤ 1 ∧ -2 ≤ dg ∧ dg ≤ 1 ∧ -2 ≤ db ∧ db ≤ 1 then
          [BitVec.ofInt 8 (0x40 + 16 * (dr + 2) + 4 * (dg + 2) + (db + 2))]
        else if -32 ≤ dg ∧ dg ≤ 31 ∧ -8 ≤ dr - dg ∧ dr - dg ≤ 7 ∧ -8 ≤ db - dg ∧ db - dg ≤ 7 then
          [BitVec.ofInt 8 (0x80 + (dg + 32)), BitVec.ofInt 8 (16 * (dr - dg + 8) + (db - dg + 8))]
        else [0xfe, cur.r, cur.g, cur.b]
      else [0xff, cur.r, cur.g, cur.b, cur.a] := by
  obtain ⟨-, encode_diff, encode_luma, -⟩ := encodedByteValues
  simp only [← diffFits_iff, ← lumaFits_iff]
  cases h with
  | diff ha hd =>
    rw [if_pos ha, if_pos hd]
    obtain ⟨h1, h2, h3, h4, h5, h6⟩ := diffFits_iff.mp hd
    exact encode_diff dr dg db h1 h2 h3 h4 h5 h6
  | luma ha hd hl =>
    rw [if_pos ha, if_neg (Bool.eq_false_iff.mp hd), if_pos hl]
    obtain ⟨h1, h2, h3, h4, h5, h6⟩ := lumaFits_iff.mp hl
    exact encode_luma dg (dr - dg) (db - dg) h1 h2 h3 h4 h5 h6
  | rgb ha hd hl =>
    rw [if_pos ha, if_neg (Bool.eq_false_iff.mp hd), if_neg (Bool.eq_false_iff.mp hl)]
    rfl
  | rgba ha =>
    rw [if_neg ha]
    rfl

/-! ## The chunks of a step -/

/-- The chunk of a pixel that differs from `PREV` (R115, R123). -/
def freshChunk (cur : Pixel) (s : State) : Instr :=
  if s.histRead (hashPixel cur) = cur then .index (hashPixel cur).val else literalChunk s.prev cur

/-- The Run chunk that a flush of `RUN = r` writes, if any (R113). -/
def pendingRun (r : BitVec 6) : List Instr := if r = 0 then [] else [.run r.toNat]

/-- The chunks the encoder pixel step writes once it has fetched `cur` (R112 to R120). -/
def pixelChunks (cur : Pixel) (s : State) : List Instr :=
  if cur = s.prev then
    if s.run + 1 = 62 ∨ s.pos + 1 = s.n then [.run (s.run + 1).toNat] else []
  else pendingRun s.run ++ [freshChunk cur s]

theorem freshChunk_wf (cur : Pixel) (s : State) :
    (freshChunk cur s).wf = true ∧ (freshChunk cur s).position = .chunk := by
  unfold freshChunk
  split
  · exact ⟨decide_eq_true (hashPixel cur).isLt, rfl⟩
  · exact (literalChunk_choice s.prev cur).wf

theorem run_add_one_eq {r : BitVec 6} (h : r.toNat ≤ 61) : (r + 1).toNat = r.toNat + 1 := by
  bv_omega

theorem run_wf {length : Nat} (h1 : 1 ≤ length) (h62 : length ≤ 62) : (Instr.run length).wf = true := by
  simp [Instr.wf, h1, h62]

theorem pendingRun_wf {r : BitVec 6} (hr : r.toNat ≤ 62) : ∀ i ∈ pendingRun r, i.wf = true ∧ i.position = .chunk := by
  intro i hi
  unfold pendingRun at hi
  split at hi
  · cases hi
  · next hne =>
    obtain rfl := List.mem_singleton.mp hi
    exact ⟨run_wf (BitVec.toNat_pos_of_ne_zero hne) hr, rfl⟩

/-- Every chunk the encoder writes is well formed; for a Run that is R125 (b). -/
theorem pixelChunks_wf (hr : s.run.toNat ≤ 61) (cur : Pixel) :
    ∀ i ∈ pixelChunks cur s, i.wf = true ∧ i.position = .chunk := by
  intro i hi
  unfold pixelChunks at hi
  split at hi
  · split at hi
    · obtain rfl := List.mem_singleton.mp hi
      have hlen := run_add_one_eq hr
      exact ⟨run_wf (by omega) (by omega), rfl⟩
    · cases hi
  · obtain hi | hi := List.mem_append.mp hi
    · exact pendingRun_wf (by omega) i hi
    · obtain rfl := List.mem_singleton.mp hi
      exact freshChunk_wf cur s

/-! ## The pixel step as one record -/

/-- The bytes of a flush, for any value of the six-bit `RUN` (R113, R114). -/
theorem flush_bytes_eq (r : BitVec 6) :
    (if r = 0 then [] else encode (.run r.toNat)) =
      if r = 0 then [] else [BitVec.ofNat 8 (0xc0 + (r.toNat - 1))] := by
  split
  · rfl
  · next h => exact encode_run_of_le (BitVec.toNat_pos_of_ne_zero h) r.isLt.le

theorem encPixelStep_of_repeat (hn : nextPixel s = some s.prev) :
    encPixelStep s = { fetchPixel s with
      run := if s.run + 1 = 62 ∨ s.pos + 1 = s.n then 0 else s.run + 1
      byteSink := s.byteSink ++ if s.run + 1 = 62 ∨ s.pos + 1 = s.n then encode (.run (s.run + 1).toNat) else []
      phase := if s.pos + 1 = s.n then .padding else s.phase } := by
  obtain ⟨hnone, -⟩ | ⟨-, e⟩ | ⟨cur, hcur, hne, -⟩ := encPixelStep_cases s
  · cases hn.symm.trans hnone
  · rw [e, repeatPixel_eq]
    rfl
  · exact absurd (Option.some.inj (hcur.symm.trans hn)) hne

theorem encPixelStep_of_fresh (hn : nextPixel s = some cur) (hne : cur ≠ s.prev) :
    encPixelStep s = { fetchPixel s with
      run := 0
      hist := if s.histRead (hashPixel cur) = cur then s.hist else s.hist.set (hashPixel cur).val cur
      byteSink := s.byteSink ++ (if s.run = 0 then [] else encode (.run s.run.toNat)) ++ encode (freshChunk cur s)
      prev := cur
      phase := if s.pos + 1 = s.n then .padding else s.phase } := by
  obtain ⟨hnone, -⟩ | ⟨hprev, -⟩ | ⟨cur', hcur, -, e⟩ := encPixelStep_cases s
  · cases hn.symm.trans hnone
  · exact absurd (Option.some.inj (hn.symm.trans hprev)) hne
  · obtain rfl := Option.some.inj (hn.symm.trans hcur)
    rw [e, freshPixel_eq]
    rfl

/-- After a pixel that differs from `PREV`, by a hit or by the write of the slot (R125 (c)). -/
theorem encPixelStep_histRead (hn : nextPixel s = some cur) (hne : cur ≠ s.prev) :
    (encPixelStep s).histRead (hashPixel cur) = cur := by
  rw [encPixelStep_of_fresh hn hne]
  by_cases hhit : s.histRead (hashPixel cur) = cur
  · rw [if_pos hhit]
    exact hhit
  · rw [if_neg hhit]
    exact histRead_histWrite_same s cur

/-- Run or fresh, a fetched pixel is consumed and counted, and the pixel phase ends at the last one (R111, R122). -/
theorem encPixelStep_counts (hn : nextPixel s = some cur) :
    (encPixelStep s).pixelSource = s.pixelSource.advance (pixelSize s.channels) ∧ (encPixelStep s).pos = s.pos + 1 ∧
      (encPixelStep s).phase = if s.pos + 1 = s.n then .padding else s.phase := by
  by_cases e : cur = s.prev
  · subst e
    rw [encPixelStep_of_repeat hn]
    exact ⟨rfl, rfl, rfl⟩
  · rw [encPixelStep_of_fresh hn e]
    exact ⟨rfl, rfl, rfl⟩

/-- The bytes a pixel step writes are those of its chunks. -/
theorem encPixelStep_byteSink (hn : nextPixel s = some cur) :
    (encPixelStep s).byteSink = s.byteSink ++ ((pixelChunks cur s).map encode).flatten := by
  unfold pixelChunks pendingRun
  by_cases e : cur = s.prev
  · subst e
    rw [encPixelStep_of_repeat hn, if_pos rfl]
    dsimp only
    split <;> simp
  · rw [encPixelStep_of_fresh hn e, if_neg e]
    dsimp only
    split <;> simp

/-! ## What a pixel costs (R49) -/

/-- In a 3-channel pass the alpha of a fetched pixel never changes, so a fresh pixel is at most `CHANNELS + 1` bytes. -/
theorem freshChunk_length_le (hc : Config.legalChannels s.channels = true) (hn : nextPixel s = some cur) :
    (freshChunk cur s).length ≤ s.channels.toNat + 1 := by
  unfold freshChunk
  split
  · simp [Instr.length]
  · have hle := (literalChunk_choice s.prev cur).length_le
    obtain hc | hc := legalChannels_iff.mp hc
    · rw [if_pos (nextPixel_alpha hc hn)] at hle
      rw [hc]
      exact hle
    · rw [hc]
      exact hle.trans (by split <;> decide)

theorem pendingRun_length_le (r : BitVec 6) : (pendingRun r).length ≤ 1 := by
  unfold pendingRun
  split <;> simp

theorem pendingRun_bytes_length (r : BitVec 6) : ((pendingRun r).map encode).flatten.length = (pendingRun r).length := by
  unfold pendingRun
  split <;> simp [encode_length, Instr.length]

/-- A pixel pays for its own chunk, or for the one byte of the run it is counted in. -/
theorem pixelChunks_cost (hc : Config.legalChannels s.channels = true) (hn : nextPixel s = some cur) :
    ((pixelChunks cur s).map encode).flatten.length + (pendingRun (encPixelStep s).run).length ≤
      (pendingRun s.run).length + (s.channels.toNat + 1) := by
  unfold pixelChunks
  by_cases e : cur = s.prev
  · subst e
    rw [encPixelStep_of_repeat hn, if_pos rfl]
    dsimp only
    split
    · have hbytes : (([Instr.run (s.run + 1).toNat].map encode).flatten).length = 1 := rfl
      have hnone : (pendingRun 0).length = 0 := rfl
      omega
    · have hbytes : (([] : List Instr).map encode).flatten.length = 0 := rfl
      have hle := pendingRun_length_le (s.run + 1)
      omega
  · have hle := freshChunk_length_le hc hn
    have hbytes : (([freshChunk cur s].map encode).flatten).length = (freshChunk cur s).length := by
      simp [encode_length]
    have hnone : (pendingRun 0).length = 0 := rfl
    rw [encPixelStep_of_fresh hn e, if_neg e, List.map_append, List.flatten_append, List.length_append,
      pendingRun_bytes_length]
    dsimp only
    omega

/-! ## The fetch (R111) -/

theorem nextPixel_four {r g b a : Byte} {rest : List Byte} (hc : s.channels = 4)
    (h : s.pixelSource.rest = r :: g :: b :: a :: rest) : nextPixel s = some ⟨r, g, b, a⟩ := by
  simp [nextPixel, h, hc]

theorem nextPixel_three {r g b : Byte} {rest : List Byte} (hc : s.channels = 3)
    (h : s.pixelSource.rest = r :: g :: b :: rest) : nextPixel s = some ⟨r, g, b, s.prev.a⟩ := by
  simp [nextPixel, h, hc]

/-- With `CHANNELS` bytes left there is a next pixel. -/
theorem exists_nextPixel (hc : Config.legalChannels s.channels = true)
    (hl : s.channels.toNat ≤ s.pixelSource.rest.length) : ∃ cur, nextPixel s = some cur := by
  obtain hc | hc := legalChannels_iff.mp hc <;> rw [hc] at hl
  · match h : s.pixelSource.rest, hl with
    | r :: g :: b :: rest, _ => exact ⟨_, nextPixel_three hc h⟩
  · match h : s.pixelSource.rest, hl with
    | r :: g :: b :: a :: rest, _ => exact ⟨_, nextPixel_four hc h⟩

theorem step_of_encoding (he : Encoding s) : step s = .next (encPixelStep s) := by
  rw [step_of_enc (by rw [he.2]; rfl) he.1, encStep_pixels he.2]

end Sys2Proof.Machine

/-! # The pixel phase of an `ENC` pass (R49, R65, R124) -/

namespace Sys2Proof.Machine

variable {s t : State}

theorem core_run_add {j : Nat} (k : Nat) (h : core.run j s = .next t) : core.run (j + k) s = core.run k t := by
  induction j generalizing s with
  | zero =>
    cases h
    rw [Nat.zero_add]
  | succ j ih =>
    obtain ⟨u, hu, h⟩ := core_run_succ_next h
    rw [Nat.add_right_comm, core_run_succ_of_next hu, ih h]

/-- `k` pixel steps lead from `s` to `t`, reading `k` pixels and writing `chunks`. A run still pending counts as the byte
its flush will write. -/
structure Codes (k : Nat) (s t : State) (chunks : List Instr) : Prop where
  run : core.run k s = .next t
  source : t.pixelSource.pos = s.pixelSource.pos + k * s.channels.toNat
  sink : t.byteSink = s.byteSink ++ (chunks.map encode).flatten
  wf : ∀ i ∈ chunks, i.wf = true ∧ i.position = .chunk
  cost : (chunks.map encode).flatten.length + (pendingRun t.run).length ≤
    (pendingRun s.run).length + k * (s.channels.toNat + 1)

theorem Codes.refl (s : State) : Codes 0 s s [] := by
  constructor <;> simp [Host.Core.run]

/-- One pixel step before `k` others. -/
theorem Codes.cons {k : Nat} {chunks : List Instr} {cur : Pixel} (h : Inv s) (he : Encoding s)
    (hn : nextPixel s = some cur) (hk : Codes k (encPixelStep s) t chunks) :
    Codes (k + 1) s t (pixelChunks cur s ++ chunks) := by
  have hlegal := h.channels_legal (.inl he.2)
  have hchannels := (encPixelStep_sameHeader s).1.channels
  obtain ⟨hrun, hsource, hsink, hwf, hcost⟩ := hk
  rw [hchannels] at hsource hcost
  constructor
  case run => exact (core_run_succ_of_next (step_of_encoding he)).trans hrun
  case source =>
    rw [hsource, (encPixelStep_counts hn).1, pixelSize_eq_toNat hlegal, Nat.succ_mul]
    simp only [Source.advance]
    omega
  case sink =>
    rw [hsink, encPixelStep_byteSink hn, List.map_append, List.flatten_append, List.append_assoc]
  case wf => exact fun i hi => (List.mem_append.mp hi).elim (pixelChunks_wf h.run_le cur i) (hwf i)
  case cost =>
    have hfirst := pixelChunks_cost hlegal hn
    rw [List.map_append, List.flatten_append, List.length_append, Nat.succ_mul]
    omega

/-- The pixels left are coded one by one, up to the end-marker step, if the source holds them (R122, R124). -/
theorem exists_codes_to_padding {k : Nat} (h : Inv s) (hm : s.mode = .enc) (hp : s.phase = .pixels ∨ s.phase = .padding)
    (hk : s.n.toNat - s.pos.toNat = k) (hl : k * s.channels.toNat ≤ s.pixelSource.rest.length) :
    ∃ t chunks, Codes k s t chunks ∧ Inv t ∧ t.mode = .enc ∧ t.phase = .padding := by
  induction k generalizing s with
  | zero =>
    have hpad : s.phase = .padding := hp.resolve_left fun hpix => by
      have := h.below_budget hpix
      omega
    exact ⟨s, [], .refl s, h, hm, hpad⟩
  | succ k ih =>
    have hpix : s.phase = .pixels := hp.resolve_right fun hpad => by
      rw [h.at_budget hpad] at hk
      omega
    have he : Encoding s := ⟨hm, hpix⟩
    rw [Nat.succ_mul] at hl
    obtain ⟨cur, hn⟩ := exists_nextPixel (h.channels_legal (.inl hpix)) (by omega)
    obtain ⟨hsource, hpos, hphase⟩ := encPixelStep_counts hn
    obtain ⟨hsame, hbudget⟩ := encPixelStep_sameHeader s
    have hpos1 : (s.pos + 1).toNat = s.pos.toNat + 1 := pos_add_toNat (k := 1) (by omega) (h.below_budget hpix).le
    obtain ⟨t, chunks, hcodes, ht⟩ := ih (h.encPixelStep he) (hsame.mode.trans hm)
      (by rw [hphase, hpix]; split <;> simp) (by rw [hbudget, hpos]; omega)
      (by
        rw [hsame.channels, hsource, Source.advance_rest, List.length_drop,
          pixelSize_eq_toNat (h.channels_legal (.inl hpix))]
        omega)
    exact ⟨t, _, hcodes.cons h he hn, ht⟩

end Sys2Proof.Machine

/-! # The statements of 41_encoder.md -/

namespace Sys2Proof.Machine

/-- Settles O56: the header step, then `exists_codes_to_padding` from there, then the end marker. -/
theorem encoderPassSucceeds : Obligations.EncoderPassSucceeds := by
  intro s h hm hp hlegal hl
  have hheader : step s = .next (encHeader s.width s.height s.channels s.colorspace s) := by
    rw [step_of_enc (by rw [hp]; rfl) hm, encStep_header hm hp]
  have hinv := h.encHeader hm hp
  rw [encHeader_legal hlegal] at hheader hinv
  have hn := pixelBudget_toNat s.width s.height
  have hphase := (phaseAfterHeader_cases (pixelBudget s.width s.height)).imp And.left And.left
  obtain ⟨t, chunks, hcodes, ht, htm, htp⟩ := exists_codes_to_padding hinv hm hphase
    (by rw [hn, (h.fresh hp).1]; rfl) hl
  obtain ⟨hrun, hsource, hsink, hwf, hcost⟩ := hcodes
  have hmarker : step t = .next (succeed (emit .endMarker t)) := by
    rw [step_of_enc (by rw [htp]; rfl) htm, encStep_padding htm htp]
  refine ⟨succeed (emit .endMarker t), chunks, ?_, ⟨rfl, rfl⟩, ?_, hsource, hwf, ?_, ?_⟩
  · rw [core_run_succ_of_next hheader, core_run_add 1 hrun, core_run_succ_of_next hmarker]
    rfl
  · exact (ht.status_open (by rw [htp]; decide) (by rw [htp]; decide)).2
  · simp [hsink]
  · have hidle : s.run = 0 := h.run_flushed (by rw [hp]; decide) (by rw [hp]; decide)
    rw [hidle] at hcost
    exact (Nat.le_add_right _ _).trans (hcost.trans (by simp [pendingRun]))

/-- Settles O36: the pixel continues the run, which is written out at the cap and at the last pixel. -/
theorem encoderRunPixelStep : Obligations.EncoderRunPixelStep := by
  intro s he hr hn
  have hcap : s.run + 1 = 62 ↔ s.run.toNat + 1 = 62 := by
    rw [← BitVec.toNat_inj, run_add_one_eq hr]
    rfl
  rw [step_of_encoding he, encPixelStep_of_repeat hn, he.2, run_add_one_eq hr,
    encode_run_of_le (Nat.le_add_left 1 _) (by omega), Nat.add_sub_cancel]
  simp only [hcap]
  split
  · rfl
  · next hgo =>
    rw [if_neg (hgo ∘ .inr), List.append_nil, ← he.2]
    rfl

/-- Settles O37: a fresh pixel whose slot holds it. -/
theorem encoderIndexPixelStep : Obligations.EncoderIndexPixelStep := by
  intro s cur he hn hne hhit
  rw [step_of_encoding he, encPixelStep_of_fresh hn hne, flush_bytes_eq, freshChunk, if_pos hhit, if_pos hhit,
    encode_index (hashPixel cur).isLt, he.2]
  rfl

/-- Settles O38: a fresh pixel whose slot holds another, coded by the literal chunk. -/
theorem encoderMissPixelStep : Obligations.EncoderMissPixelStep := by
  rintro s cur he hn hne hmiss dr dg db rfl rfl rfl
  rw [step_of_encoding he, encPixelStep_of_fresh hn hne, flush_bytes_eq, freshChunk, if_neg hmiss, if_neg hmiss,
    (literalChunk_choice s.prev cur).encode_eq, he.2]

/-- Settles O39: without an alpha byte the alpha is that of `PREV`, which `Inv` fixes. -/
theorem encoderConsequences : Obligations.EncoderConsequences := by
  intro s t cur h he hn hstep
  refine ⟨fun hc => ?_, fun hne => ?_⟩
  · have hprev : s.prev.a = 255 := h.alpha_opaque he.1 hc (by rw [he.2]; rfl)
    exact ⟨(nextPixel_alpha hc hn).trans hprev, hprev⟩
  · obtain rfl := Host.Outcome.next.inj ((step_of_encoding he).symm.trans hstep)
    have hcur : (encPixelStep s).prev = cur := by rw [encPixelStep_of_fresh hn hne]
    rw [hcur, encPixelStep_histRead hn hne]

/-- Settles O21: each chunk but Run is emitted as it is. -/
theorem chunkEmissionAppendsItsBytes : Obligations.ChunkEmissionAppendsItsBytes := by
  intro i s he hw hc hrun
  have hp : s.phase = phaseOf i.position := by
    rw [he.2, hc]
    rfl
  cases i with
  | header | endMarker => cases hc
  | run length => exact absurd rfl (hrun length)
  | index slot => exact (exec_index slot s).trans (perform_enc hw hp he.1)
  | diff dr dg db => exact (exec_diff dr dg db s).trans (perform_enc hw hp he.1)
  | luma dg drDg dbDg => exact (exec_luma dg drDg dbDg s).trans (perform_enc hw hp he.1)
  | rgb r g b => exact (exec_rgb r g b s).trans (perform_enc hw hp he.1)
  | rgba r g b a => exact (exec_rgba r g b a s).trans (perform_enc hw hp he.1)

/-- Settles O22: the length is `RUN`, so the chunk is emitted and `RUN` cleared. -/
theorem runEmissionClearsTheCounter : Obligations.RunEmissionClearsTheCounter := by
  intro s he h1 h62
  rw [exec_run, perform_enc (run_wf h1 h62) he.2 he.1, if_pos rfl, emitRun_eq, encode_run_of_le h1 (by omega)]

/-- Settles O35: the bytes are there, and `CHANNELS` says how many are the pixel's. -/
theorem encoderPixelFetch : Obligations.EncoderPixelFetch := by
  intro s r g b a rest
  refine ⟨fun hc h => ⟨nextPixel_four hc h, ?_⟩, fun hc h => ⟨nextPixel_three hc h, ?_⟩⟩
  · rw [fetchPixel, hc]
    rfl
  · rw [fetchPixel, hc]
    rfl

end Sys2Proof.Machine

/-! # The chunks of a `DEC` pass (R137 to R145, R148) -/

namespace Sys2Proof.Machine

variable {s t : State}

/-! ## What a chunk does -/

/-- A chunk that decodes to one pixel commits it (R143). -/
theorem performPixel_dec {i : Instr} {cur : State → Pixel} (hw : i.wf = true) (hc : i.position = .chunk)
    (hd : Decoding s) : performPixel i cur s = .next (afterPixels 1 (cur s) s) := by
  have hp : s.phase = phaseOf i.position := by rw [hc]; exact hd.2
  rw [performPixel, perform_dec hw hp hd.1, commit_eq_afterPixels]

theorem diff_wf {dr dg db : Int} (hr : -2 ≤ dr ∧ dr ≤ 1) (hg : -2 ≤ dg ∧ dg ≤ 1) (hb : -2 ≤ db ∧ db ≤ 1) :
    (Instr.diff dr dg db).wf = true := by
  simp [Instr.wf, inRange, hr, hg, hb]

theorem luma_wf {dg drDg dbDg : Int} (hg : -32 ≤ dg ∧ dg ≤ 31) (hr : -8 ≤ drDg ∧ drDg ≤ 7)
    (hb : -8 ≤ dbDg ∧ dbDg ≤ 7) : (Instr.luma dg drDg dbDg).wf = true := by
  simp [Instr.wf, inRange, hr, hg, hb]

/-! ## A step on a chunk, whole or cut short -/

/-- A step on bytes that begin with a chunk of `ReadChunk` runs it. -/
theorem step_of_readChunk {i : Instr} (hd : Decoding s) (h : ReadChunk s.byteSource.rest i) :
    step s = exec i (s.advance i.length) := by
  have hc : i.position = .chunk := (decodeChunk_ok h.decode).1
  exact step_of_item hd.1 (by rw [hc]; exact hd.2) (by rw [hc]; exact h.decodeAt)

/-- A step on a chunk with fewer bytes than its tag asks for (R163). -/
theorem step_of_chunk_cut_short {b : Byte} {rest : List Byte} (hd : Decoding s)
    (hc : s.byteSource.pos ≤ s.byteSource.bytes.length) (hrest : s.byteSource.rest = b :: rest)
    (hl : rest.length + 1 < chunkLength b) : step s = .next (afterByteUnderrun s) :=
  step_of_tooShort (p := .chunk) hc hd.1 hd.2 (by rw [hrest]; exact decodeChunk_tooShort hl)

/-! ## `CHANNELS` reaches the pixel sink only (R148, D11) -/

/-- Does this meaning read `CHANNELS` for the bytes it puts out only? -/
def ChannelsOnlyInSink (f : State → Result) : Prop :=
  ∀ (s t : State) (c : Byte), s.mode = .dec → f s = .next t →
    ∃ out, f { s with channels := c } = .next { t with channels := c, pixelSink := out }

/-- Both modes ask the same of an item before its step, and none of it is about `CHANNELS`. -/
theorem perform_channelsOnlyInSink {i : Instr} {d e : State → Result} (hd : ChannelsOnlyInSink d) :
    ChannelsOnlyInSink fun s => perform i s d e := by
  intro s t c hm h
  obtain ⟨hw, hp, ⟨-, ht⟩ | ⟨hm', -⟩⟩ := perform_next h
  · obtain ⟨out, hout⟩ := hd s t c hm ht
    exact ⟨out, (perform_dec (s := { s with channels := c }) hw hp hm).trans hout⟩
  · cases hm.symm.trans hm'

/-- A chunk that decodes to one pixel, found without `CHANNELS`. -/
theorem channelsOnlyInSink_of_pixel {f : State → Result} {i : Instr} {cur : State → Pixel}
    (hf : ∀ s, f s = performPixel i cur s) (hcur : ∀ (s : State) (c : Byte), cur { s with channels := c } = cur s) :
    ChannelsOnlyInSink f := by
  obtain rfl : f = performPixel i cur := funext hf
  refine perform_channelsOnlyInSink fun s t c _ h => ?_
  cases h
  rw [hcur, commit_eq, commit_eq]
  exact ⟨_, rfl⟩

/-- The number of repetitions of a run does not depend on `CHANNELS`. -/
theorem replay_channelsOnlyInSink (length : Nat) :
    ChannelsOnlyInSink fun s => .next (endOfPixels (replay (clippedLength s length) s)) := by
  intro s t c _ h
  cases h
  have hk : clippedLength { s with channels := c } length = clippedLength s length := rfl
  simp only [hk, endOfPixels_eq]
  cases clippedLength s length with
  | zero => exact ⟨s.pixelSink, rfl⟩
  | succ k =>
    rw [replay_succ_eq, replay_succ_eq]
    exact ⟨_, rfl⟩

/-- Every chunk is such a meaning: it takes its pixel from its operands, `PREV` and the table. -/
theorem exec_chunk_channelsOnlyInSink {i : Instr} (hc : i.position = .chunk) : ChannelsOnlyInSink (exec i) := by
  cases i with
  | header | endMarker => cases hc
  | run length => exact perform_channelsOnlyInSink (replay_channelsOnlyInSink length)
  | index slot => exact channelsOnlyInSink_of_pixel (exec_index slot) fun _ _ => rfl
  | diff dr dg db => exact channelsOnlyInSink_of_pixel (exec_diff dr dg db) fun _ _ => rfl
  | luma dg drDg dbDg => exact channelsOnlyInSink_of_pixel (exec_luma dg drDg dbDg) fun _ _ => rfl
  | rgb r g b => exact channelsOnlyInSink_of_pixel (exec_rgb r g b) fun _ _ => rfl
  | rgba r g b a => exact channelsOnlyInSink_of_pixel (exec_rgba r g b a) fun _ _ => rfl

end Sys2Proof.Machine

/-! # The statements of 42_decoder.md: one chunk -/

namespace Sys2Proof.Machine

/-- Settles O18: the clipped length is at least one, so `PREV` is what `afterPixels` puts out. -/
theorem runExecutes : Obligations.RunExecutes := by
  intro s length hd hb h1 h62
  obtain ⟨hk, -⟩ := clippedLength_bounds hb h1
  rw [exec_run, perform_dec (run_wf h1 h62) hd.2 hd.1, endOfPixels_replay_eq_afterPixels hk, clippedLength]

/-- Settles O13: the operand is in range, so the slot read is the slot named. -/
theorem indexExecutes : Obligations.IndexExecutes := by
  intro s slot h hd
  have hread : s.histRead (Fin.ofNat 64 slot) = s.hist[slot] := by
    simp [State.histRead, Nat.mod_eq_of_lt h]
  have hw : (Instr.index slot).wf = true := decide_eq_true h
  rw [exec_index, performPixel_dec hw rfl hd, hread]

/-- Settles O14: the pixel is `shiftPixel` of `PREV`. -/
theorem diffExecutes : Obligations.DiffExecutes := by
  intro s dr dg db hd hr0 hr1 hg0 hg1 hb0 hb1
  rw [exec_diff, performPixel_dec (diff_wf ⟨hr0, hr1⟩ ⟨hg0, hg1⟩ ⟨hb0, hb1⟩) rfl hd]
  rfl

/-- Settles O15: the pixel is `lumaPixel` of `PREV`. -/
theorem lumaExecutes : Obligations.LumaExecutes := by
  intro s dg drDg dbDg hd hg0 hg1 hr0 hr1 hb0 hb1
  rw [exec_luma, performPixel_dec (luma_wf ⟨hg0, hg1⟩ ⟨hr0, hr1⟩ ⟨hb0, hb1⟩) rfl hd]
  rfl

/-- Settles O16: the pixel is `rgbPixel` of `PREV`. -/
theorem rgbExecutes : Obligations.RgbExecutes := fun s r g b hd =>
  (exec_rgb r g b s).trans (performPixel_dec rfl rfl hd)

/-- Settles O17: the pixel is the four operands. -/
theorem rgbaExecutes : Obligations.RgbaExecutes := fun s r g b a hd =>
  (exec_rgba r g b a s).trans (performPixel_dec rfl rfl hd)

/-- Settles O30: a tag of the Run family, then `runExecutes` with the cursor moved. -/
theorem runChunkStep : Obligations.RunChunkStep := by
  intro s t rest hd hb hrest hlo hhi
  have hread := ReadChunk.of_run_tag hlo (by omega) rest
  rw [step_of_readChunk hd (hrest ▸ hread)]
  exact runExecutes (s.advance 1) _ hd hb (by omega) (by omega)

/-- Settles O51: the same bytes are fetched, and the chunk reads `CHANNELS` for the sink only. -/
theorem channelsOnlyAffectOutput : Obligations.ChannelsOnlyAffectOutput := by
  intro s t c hd h
  have hr : s.phase.running = true := by rw [hd.2]; rfl
  rw [step_of_dec hr hd.1] at h
  rw [step_of_dec (s := { s with channels := c }) hr hd.1]
  obtain ⟨i, hf, hx⟩ | ⟨r, hf, rfl⟩ := decStep_next h
  · have hc : i.position = .chunk := (decodeAt_ok hf).1.trans (fetchPosition_of_phaseOf (p := .chunk) hd.2)
    rw [decStep_of_fetch_ok (s := { s with channels := c }) hf]
    exact exec_chunk_channelsOnlyInSink hc (s.advance i.length) t c hd.1 hx
  · rw [decStep_of_fetch_error (s := { s with channels := c }) hf]
    cases r <;> exact ⟨s.pixelSink, rfl⟩

/-- Settles O26: a tag of the Index family, then `indexExecutes` with the cursor moved. -/
theorem indexChunkStep : Obligations.IndexChunkStep := by
  intro s t rest h hd hrest
  rw [step_of_readChunk hd (hrest ▸ ReadChunk.of_index_tag h rest)]
  exact indexExecutes (s.advance 1) _ h hd

/-- Settles O27: a tag of the Diff family, whose fields less their bias are in range. -/
theorem diffChunkStep : Obligations.DiffChunkStep := by
  intro s t rest hd hrest hlo hhi
  rw [step_of_readChunk hd (hrest ▸ ReadChunk.of_diff_tag hlo (by omega) rest)]
  unfold unbias
  exact diffExecutes (s.advance 1) _ _ _ hd (by omega) (by omega) (by omega) (by omega) (by omega) (by omega)

/-- Settles O28: a tag of the Luma family, which asks for one more byte. -/
theorem lumaChunkStep : Obligations.LumaChunkStep := by
  intro s t hd hc hlo hhi
  refine ⟨fun u rest hrest => ?_, fun hrest => ?_⟩
  · have hu := u.isLt
    rw [step_of_readChunk hd (hrest ▸ ReadChunk.of_luma_tag hlo (by omega) u rest)]
    unfold unbias
    exact lumaExecutes (s.advance 2) _ _ _ hd (by omega) (by omega) (by omega) (by omega) (by omega) (by omega)
  · have hlen : chunkLength t = 2 := by
      rw [chunkLength_eq, if_neg (by omega), if_pos (by omega)]
    exact step_of_chunk_cut_short hd hc hrest (by rw [hlen]; decide)

/-- Settles O29: the two literal tags, which ask for three and four more bytes. -/
theorem literalChunkStep : Obligations.LiteralChunkStep := by
  intro s hd hc
  refine ⟨fun r g b rest hrest => ?_, fun rest hrest hl => step_of_chunk_cut_short hd hc hrest (Nat.succ_lt_succ hl),
    fun r g b a rest hrest => ?_, fun rest hrest hl => step_of_chunk_cut_short hd hc hrest (Nat.succ_lt_succ hl)⟩
  · rw [step_of_readChunk hd (hrest ▸ ReadChunk.rgb r g b rest)]
    exact rgbExecutes (s.advance 4) r g b hd
  · rw [step_of_readChunk hd (hrest ▸ ReadChunk.rgba r g b a rest)]
    exact rgbaExecutes (s.advance 5) r g b a hd

end Sys2Proof.Machine

/-! # A decoder that follows an encoder (R146) -/

namespace Sys2Proof.Machine

variable {s t e d : State} {cur : Pixel}

/-! ## A literal chunk gives back the pixel it was written for (R146 (e)) -/

theorem addDelta_delta (prev cur : Byte) : addDelta prev (delta cur prev) = cur := by
  rw [addDelta_eq, delta_eq, wrap8, BitVec.ofInt_toInt, BitVec.add_comm, BitVec.sub_add_cancel]

/-- The deltas between two pixels of the same alpha lead from the one to the other. -/
theorem shiftPixel_delta {prev cur : Pixel} (ha : cur.a = prev.a) :
    shiftPixel prev (delta cur.r prev.r) (delta cur.g prev.g) (delta cur.b prev.b) = cur := by
  simp only [shiftPixel, addDelta_delta, ← ha]

theorem exec_literalChunk (hd : Decoding d) (cur : Pixel) :
    exec (literalChunk d.prev cur) d = .next (afterPixels 1 cur d) := by
  have hchoice := literalChunk_choice d.prev cur
  obtain ⟨hw, hc⟩ := hchoice.wf
  generalize literalChunk d.prev cur = i at hchoice hw hc ⊢
  cases hchoice with
  | diff ha => rw [exec_diff, performPixel_dec hw hc hd, shiftPixel_delta ha]
  | luma ha =>
    rw [exec_luma, performPixel_dec hw hc hd, lumaPixel, Int.sub_add_cancel, Int.sub_add_cancel, shiftPixel_delta ha]
  | rgb ha => rw [exec_rgb, performPixel_dec hw hc hd, rgbPixel, ← ha]
  | rgba => rw [exec_rgba, performPixel_dec hw hc hd]

/-! ## The two history tables (R146 (b) to (d)) -/

/-- The decoder has the encoder's pixel in every slot that an `Index` chunk can name. An encoder names only a slot whose
pixel hashes to it, which slot 53 of R146 (c) is not while it differs. -/
def SlotsAgree (e d : State) : Prop :=
  ∀ i : Fin 64, hashPixel (e.histRead i) = i → d.histRead i = e.histRead i

/-- The slot of `p` holds `p`, or nothing that an `Index` chunk can name. -/
def SlotHolds (e : State) (p : Pixel) : Prop :=
  hashPixel (e.histRead (hashPixel p)) = hashPixel p → e.histRead (hashPixel p) = p

/-- Both sides write the slot. -/
theorem SlotsAgree.histWrite_both (h : SlotsAgree e d) (p : Pixel) : SlotsAgree (e.histWrite p) (d.histWrite p) := by
  intro i hi
  by_cases hp : hashPixel p = i
  · subst hp
    rw [histRead_histWrite_same, histRead_histWrite_same]
  · rw [histRead_histWrite_other e p i hp] at hi ⊢
    rw [histRead_histWrite_other d p i hp]
    exact h i hi

/-- The decoder alone writes the slot, as it does for a Run and for an Index (R142, R143). -/
theorem SlotsAgree.histWrite_right {p : Pixel} (h : SlotsAgree e d) (hp : SlotHolds e p) :
    SlotsAgree e (d.histWrite p) := by
  intro i hi
  by_cases hslot : hashPixel p = i
  · subst hslot
    rw [histRead_histWrite_same, hp hi]
  · rw [histRead_histWrite_other d p i hslot]
    exact h i hi

theorem slotHolds_of_histRead {p : Pixel} (h : e.histRead (hashPixel p) = p) : SlotHolds e p := fun _ => h

/-- The chunk of a pixel that differs from `PREV` decodes to it: a literal chunk by its operands, an Index chunk because
it names a slot in which the tables agree. -/
theorem exec_freshChunk (hd : Decoding d) (hprev : d.prev = e.prev) (htable : SlotsAgree e d) (cur : Pixel) :
    exec (freshChunk cur e) d = .next (afterPixels 1 cur d) := by
  unfold freshChunk
  split
  · next hhit =>
    have hread : d.hist[(hashPixel cur).val] = cur := (htable _ (by rw [hhit])).trans hhit
    rw [indexExecutes d _ (hashPixel cur).isLt hd, hread]
  · rw [← hprev, exec_literalChunk hd]

/-! ## The pixel source of the encoder (R43, R111) -/

theorem rest_take_of_nextPixel (h : nextPixel s = some cur) :
    s.pixelSource.rest.take (pixelSize s.channels) = pixelBytes s.channels cur := by
  unfold nextPixel at h
  split at h
  · next r g b rest hrest =>
    rw [hrest]
    split at h
    · next hc =>
      split at h <;> cases h
      rw [hc]
      rfl
    · next hc =>
      cases h
      rw [pixelSize, pixelBytes, if_neg hc, if_neg hc]
      rfl
  · cases h

/-- A fetch takes the bytes of the pixel it answers. -/
theorem take_fetched (h : nextPixel s = some cur) :
    s.pixelSource.bytes.take (s.pixelSource.pos + pixelSize s.channels) =
      s.pixelSource.bytes.take s.pixelSource.pos ++ pixelBytes s.channels cur := by
  rw [List.take_add, ← rest_take_of_nextPixel h, Source.rest]

/-! ## The relation -/

/-- What is to come through the stream: the operands of Start and the pixel bytes. -/
structure Image where
  width : U32
  height : U32
  channels : Byte
  colorspace : Byte
  pixels : List Byte

/-- `Follows img e d`: the encoder has taken some pixels of `img`, and the decoder has put out all of them but the run
still pending in the encoder (R146). -/
structure Follows (img : Image) (e d : State) : Prop where
  mode : d.mode = .dec
  phase : d.phase = e.phase
  prev : d.prev = e.prev
  budget : d.n = e.n
  channels : e.channels = img.channels
  header : d.headerValid = true ∧
    (d.width, d.height, d.channels, d.colorspace) = (img.width, img.height, img.channels, img.colorspace)
  counted : d.pos.toNat + e.run.toNat = e.pos.toNat
  source : e.pixelSource.bytes = img.pixels
  written : d.pixelSink ++ (List.replicate e.run.toNat (pixelBytes img.channels e.prev)).flatten =
    img.pixels.take e.pixelSource.pos
  table : SlotsAgree e d
  slot : SlotHolds e e.prev

namespace Follows

variable {img : Image}

theorem decoding (h : Follows img e d) (he : Encoding e) : Decoding d := ⟨h.mode, h.phase.trans he.2⟩

theorem channels_eq (h : Follows img e d) : d.channels = img.channels := by
  have hheader := h.header.2
  simp only [Prod.mk.injEq] at hheader
  exact hheader.2.2.1

/-- A pixel equal to `PREV` is pending in the encoder; the decoder waits. -/
theorem repeatPixel (h : Follows img e d) (hr : e.run.toNat ≤ 61) (hpos : (e.pos + 1).toNat = e.pos.toNat + 1)
    (hn : nextPixel e = some e.prev) : Follows img { fetchPixel e with run := e.run + 1 } d where
  mode := h.mode
  phase := h.phase
  prev := h.prev
  budget := h.budget
  channels := h.channels
  header := h.header
  counted := by
    have hcounted := h.counted
    simp only [fetchPixel, run_add_one_eq hr, hpos]
    omega
  source := h.source
  written := by
    have hfetched := take_fetched hn
    rw [h.source, ← h.written, h.channels, List.append_assoc] at hfetched
    simp only [fetchPixel, Source.advance, h.channels, run_add_one_eq hr, hfetched]
    rw [List.replicate_succ', List.flatten_append, List.flatten_singleton]
  table := h.table
  slot := h.slot

/-- A Run of the pending pixels is not clipped, for the encoder has counted no pixel past the budget (R144). -/
theorem exec_pendingRun (h : Follows img e d) (he : Encoding e) (hle : e.pos.toNat ≤ e.n.toNat)
    (h1 : 1 ≤ e.run.toNat) (h62 : e.run.toNat ≤ 62) (j : Nat) :
    exec (.run e.run.toNat) (d.advance j) = .next (afterPixels e.run.toNat d.prev (d.advance j)) := by
  have hroom : d.pos.toNat + e.run.toNat ≤ d.n.toNat := by
    rw [h.counted, h.budget]
    exact hle
  have hx := runExecutes (d.advance j) e.run.toNat (h.decoding he) (by simp only [advance_pos, advance_n]; omega) h1 h62
  simp only [advance_n, advance_pos, advance_prev] at hx
  rwa [Nat.min_eq_left (by omega)] at hx

/-- Once the pending pixels are read none is pending. -/
theorem readRun (h : Follows img e d) (hle : e.pos.toNat ≤ e.n.toNat) (j : Nat) :
    Follows img (endOfPixels { e with run := 0 }) (afterPixels e.run.toNat d.prev (d.advance j)) := by
  have hcounted := h.counted
  have hpos : d.pos + BitVec.ofNat 64 e.run.toNat = e.pos := by
    have hbudget : d.n.toNat = e.n.toNat := by rw [h.budget]
    exact BitVec.eq_of_toNat_eq ((pos_add_toNat (n := d.n) (by omega) (by omega)).trans hcounted)
  rw [endOfPixels_eq]
  constructor
  case mode => exact h.mode
  case phase => simp only [afterPixels, advance_pos, advance_n, advance_phase, hpos, h.budget, h.phase]
  case prev => exact h.prev
  case budget => exact h.budget
  case channels => exact h.channels
  case header => exact h.header
  case counted =>
    simp only [afterPixels, advance_pos, hpos]
    rfl
  case source => exact h.source
  case written => simp [← h.written, afterPixels, h.channels_eq, h.prev]
  case table =>
    rw [h.prev]
    exact h.table.histWrite_right h.slot
  case slot => exact h.slot

/-- Once the chunk of a fresh pixel is read, after any run that was pending, the decoder is up to date. -/
theorem readFresh (h : Follows img { e with run := 0 } d) (hn : nextPixel e = some cur) (hne : cur ≠ e.prev) (j : Nat) :
    Follows img (encPixelStep e) (afterPixels 1 cur (d.advance j)) := by
  have hpos : d.pos = e.pos := BitVec.eq_of_toNat_eq h.counted
  have hread := encPixelStep_histRead hn hne
  rw [encPixelStep_of_fresh hn hne] at hread ⊢
  constructor
  case mode => exact h.mode
  case phase =>
    simp only [afterPixels, advance_pos, advance_n, advance_phase, h.budget, h.phase, hpos]
    rfl
  case prev => rfl
  case budget => exact h.budget
  case channels => exact h.channels
  case header => exact h.header
  case counted => simp [afterPixels, hpos, fetchPixel]
  case source => exact h.source
  case written =>
    have hchannels : e.channels = img.channels := h.channels
    have hsource : e.pixelSource.bytes = img.pixels := h.source
    have hwritten : d.pixelSink = img.pixels.take e.pixelSource.pos := by simpa using h.written
    have hfetched := take_fetched hn
    rw [hsource, hchannels, ← hwritten] at hfetched
    simp only [fetchPixel, Source.advance, hchannels, hfetched]
    simp [afterPixels, h.channels_eq]
  case table =>
    by_cases hhit : e.histRead (hashPixel cur) = cur
    · rw [if_pos hhit]
      exact h.table.histWrite_right (slotHolds_of_histRead hhit)
    · rw [if_neg hhit]
      exact h.table.histWrite_both cur
  case slot => exact slotHolds_of_histRead hread

end Follows

/-! ## Reading what the encoder wrote -/

/-- Reading `bytes` brings the decoder from `d` to where it follows the encoder in `t`. -/
def CatchesUp (img : Image) (bytes : List Byte) (t d : State) : Prop :=
  ∀ tail, d.byteSource.rest = bytes ++ tail →
    ∃ j d', core.run j d = .next d' ∧ Follows img t d' ∧ d'.byteSource.rest = tail

section CatchesUp

variable {img : Image}

theorem Follows.catchesUp (h : Follows img t d) : CatchesUp img [] t d := fun _ hrest => ⟨0, d, rfl, h, hrest⟩

theorem CatchesUp.trans {u : State} {bytes more : List Byte} (h : CatchesUp img bytes t d)
    (hmore : ∀ d', Follows img t d' → CatchesUp img more u d') : CatchesUp img (bytes ++ more) u d := by
  intro tail hrest
  rw [List.append_assoc] at hrest
  obtain ⟨j, d1, hrun1, hfollows, hrest1⟩ := h _ hrest
  obtain ⟨k, d2, hrun2, h2⟩ := hmore d1 hfollows _ hrest1
  exact ⟨j + k, d2, (core_run_add k hrun1).trans hrun2, h2⟩

/-- One chunk, read by one step. -/
theorem catchesUp_chunk {i : Instr} {k : Nat} {p : Pixel} (hd : Decoding d) (hw : i.wf = true)
    (hc : i.position = .chunk) (hx : exec i (d.advance i.length) = .next (afterPixels k p (d.advance i.length)))
    (hfollows : Follows img t (afterPixels k p (d.advance i.length))) : CatchesUp img (encode i) t d := by
  intro tail hrest
  have hstep := step_of_readChunk hd (hrest ▸ readChunk_encode hw hc tail)
  refine ⟨1, _, (core_run_succ_of_next (hstep.trans hx)).trans rfl, hfollows, ?_⟩
  simp [afterPixels, hrest, ← encode_length]

/-- The chunks that flush a pending run. -/
theorem Follows.catchesUp_pendingRun (h : Follows img e d) (he : Encoding e) (hb : e.pos.toNat < e.n.toNat)
    (h62 : e.run.toNat ≤ 62) : CatchesUp img ((pendingRun e.run).map encode).flatten { e with run := 0 } d := by
  unfold pendingRun
  split
  · next hzero =>
    rw [← hzero]
    exact h.catchesUp
  · next hne =>
    have h1 : 1 ≤ e.run.toNat := BitVec.toNat_pos_of_ne_zero hne
    have hgo : endOfPixels { e with run := 0 } = { e with run := 0 } :=
      if_neg fun hlast : e.pos = e.n => absurd hb (by simp [hlast])
    have hread := h.readRun hb.le 1
    rw [hgo] at hread
    rw [List.map_singleton, List.flatten_singleton]
    exact catchesUp_chunk (h.decoding he) (run_wf h1 h62) rfl (h.exec_pendingRun he hb.le h1 h62 1) hread

/-- The chunks of one pixel step of the encoder. -/
theorem Follows.catchesUp_pixel (h : Follows img e d) (hinv : Inv e) (he : Encoding e) (hn : nextPixel e = some cur) :
    CatchesUp img ((pixelChunks cur e).map encode).flatten (encPixelStep e) d := by
  have hb := hinv.below_budget he.2
  have hr := hinv.run_le
  have hpos : (e.pos + 1).toNat = e.pos.toNat + 1 := pos_add_toNat (k := 1) (by omega) hb.le
  unfold pixelChunks
  by_cases hprev : cur = e.prev
  · subst hprev
    have hwaits := h.repeatPixel hr hpos hn
    have hrun := run_add_one_eq hr
    rw [if_pos rfl, encPixelStep_of_repeat hn]
    by_cases hout : e.run + 1 = 62 ∨ e.pos + 1 = e.n
    · have hle : (e.pos + 1).toNat ≤ e.n.toNat := by omega
      have h1 : 1 ≤ (e.run + 1).toNat := by omega
      have h62 : (e.run + 1).toNat ≤ 62 := by omega
      have hread := hwaits.readRun hle 1
      rw [endOfPixels_eq] at hread
      simp only [if_pos hout, List.map_singleton, List.flatten_singleton]
      exact catchesUp_chunk (h.decoding he) (run_wf h1 h62) rfl (hwaits.exec_pendingRun he hle h1 h62 1)
        { hread with }
    · simp only [if_neg hout]
      rw [if_neg (hout ∘ .inr)]
      exact Follows.catchesUp { hwaits with }
  · rw [if_neg hprev, List.map_append, List.flatten_append]
    refine (h.catchesUp_pendingRun he hb (by omega)).trans fun d' h' => ?_
    obtain ⟨hw, hc⟩ := freshChunk_wf cur e
    have hd : Decoding d' := h'.decoding he
    rw [List.map_singleton, List.flatten_singleton]
    exact catchesUp_chunk hd hw hc (exec_freshChunk (d := d'.advance _) hd h'.prev h'.table cur)
      (h'.readFresh hn hprev _)

end CatchesUp

end Sys2Proof.Machine

/-! # A whole pass of each mode (R97, R124, R146) -/

namespace Sys2Proof.Machine

variable {s t e d : State} {img : Image}

/-! ## The pixel phase -/

/-- While pixels are left and the source holds them there is a next one, and what is left after it is in the source. -/
theorem exists_nextPixel_left {k : Nat} (h : Inv s) (he : Encoding s) (hk : s.n.toNat - s.pos.toNat = k + 1)
    (hl : (k + 1) * s.channels.toNat ≤ s.pixelSource.rest.length) :
    ∃ cur, nextPixel s = some cur ∧ (encPixelStep s).n.toNat - (encPixelStep s).pos.toNat = k ∧
      k * (encPixelStep s).channels.toNat ≤ (encPixelStep s).pixelSource.rest.length := by
  have hlegal := h.channels_legal (.inl he.2)
  rw [Nat.succ_mul] at hl
  obtain ⟨cur, hn⟩ := exists_nextPixel hlegal (by omega)
  obtain ⟨hsource, hpos, -⟩ := encPixelStep_counts hn
  obtain ⟨hsame, hbudget⟩ := encPixelStep_sameHeader s
  have hpos1 : (s.pos + 1).toNat = s.pos.toNat + 1 := pos_add_toNat (k := 1) (by omega) (h.below_budget he.2).le
  refine ⟨cur, hn, ?_, ?_⟩
  · rw [hbudget, hpos]
    omega
  · rw [hsame.channels, hsource, Source.advance_rest, List.length_drop, pixelSize_eq_toNat hlegal]
    omega

/-- The pixels left are coded up to the end-marker step, and a decoder that follows reads what they are coded in. -/
theorem exists_codes_followed {k : Nat} (h : Inv s) (hm : s.mode = .enc) (hp : s.phase = .pixels ∨ s.phase = .padding)
    (hk : s.n.toNat - s.pos.toNat = k) (hl : k * s.channels.toNat ≤ s.pixelSource.rest.length) :
    ∃ t chunks, Codes k s t chunks ∧ Inv t ∧ t.mode = .enc ∧ t.phase = .padding ∧
      ∀ img d, Follows img s d → CatchesUp img (chunks.map encode).flatten t d := by
  induction k generalizing s with
  | zero =>
    have hpad : s.phase = .padding := hp.resolve_left fun hpix => by
      have := h.below_budget hpix
      omega
    exact ⟨s, [], .refl s, h, hm, hpad, fun _ _ hfollows => hfollows.catchesUp⟩
  | succ k ih =>
    have hpix : s.phase = .pixels := hp.resolve_right fun hpad => by
      rw [h.at_budget hpad] at hk
      omega
    have he : Encoding s := ⟨hm, hpix⟩
    obtain ⟨cur, hn, hleft, hbytes⟩ := exists_nextPixel_left h he hk hl
    have hphase : (encPixelStep s).phase = .pixels ∨ (encPixelStep s).phase = .padding := by
      rw [(encPixelStep_counts hn).2.2, hpix]
      split <;> simp
    obtain ⟨t, chunks, hcodes, ht, htm, htp, hcatch⟩ :=
      ih (h.encPixelStep he) ((encPixelStep_sameHeader s).1.mode.trans hm) hphase hleft hbytes
    refine ⟨t, pixelChunks cur s ++ chunks, hcodes.cons h he hn, ht, htm, htp, fun img d hfollows => ?_⟩
    rw [List.map_append, List.flatten_append]
    exact (hfollows.catchesUp_pixel h he hn).trans fun d' => hcatch img d'

/-! ## An `ENC` pass does not look at the byte source (R58) -/

/-- A state bound to another byte source. -/
def withByteSource (src : Source) (s : State) : State := { s with byteSource := src }

theorem encPixelStep_withByteSource (src : Source) (s : State) :
    encPixelStep (withByteSource src s) = withByteSource src (encPixelStep s) := by
  have hnext : nextPixel (withByteSource src s) = nextPixel s := rfl
  obtain ⟨hn, e⟩ | ⟨hn, -⟩ | ⟨cur, hn, hne, -⟩ := encPixelStep_cases s
  · rw [e, encPixelStep_of_none (hnext.trans hn)]
    rfl
  · rw [encPixelStep_of_repeat hn, encPixelStep_of_repeat (s := withByteSource src s) (hnext.trans hn)]
    rfl
  · rw [encPixelStep_of_fresh hn hne, encPixelStep_of_fresh (s := withByteSource src s) (hnext.trans hn) hne]
    rfl

theorem encHeader_withByteSource (src : Source) (w h : U32) (c cs : Byte) (s : State) :
    encHeader w h c cs (withByteSource src s) = withByteSource src (encHeader w h c cs s) := by
  cases hc : Config.legalChannels c with
  | true =>
    rw [encHeader_legal hc, encHeader_legal hc]
    rfl
  | false =>
    rw [encHeader_illegal hc, encHeader_illegal hc]
    rfl

theorem step_enc_withByteSource (hm : s.mode = .enc) (hr : s.phase.running = true) (hstep : step s = .next t)
    (src : Source) : step (withByteSource src s) = .next (withByteSource src t) := by
  rw [step_of_enc hr hm] at hstep
  rw [step_of_enc (s := withByteSource src s) hr hm]
  obtain hp | hp | hp := Phase.running_iff.mp hr
  · rw [encStep_header hm hp] at hstep
    cases hstep
    rw [encStep_header (s := withByteSource src s) hm hp, ← encHeader_withByteSource]
    rfl
  · rw [encStep_pixels hp] at hstep
    cases hstep
    rw [encStep_pixels (s := withByteSource src s) hp, encPixelStep_withByteSource]
  · rw [encStep_padding hm hp] at hstep
    cases hstep
    rw [encStep_padding (s := withByteSource src s) hm hp]
    rfl

/-- The host making no move, an `ENC` pass runs the same on any byte source. -/
theorem core_run_enc_withByteSource {k : Nat} (hm : s.mode = .enc) (hmoves : s.hostMoves = [])
    (hrun : core.run k s = .next t) (src : Source) :
    core.run k (withByteSource src s) = .next (withByteSource src t) := by
  induction k generalizing s with
  | zero =>
    cases hrun
    rfl
  | succ k ih =>
    obtain ⟨u, hu, hrun⟩ := core_run_succ_next hrun
    cases hr : s.phase.running with
    | false =>
      rw [step_of_not_running hr, hostStep_nil hmoves] at hu
      cases hu
    | true =>
      obtain ⟨hmode, hhost, -⟩ := modeAndHeaderFixedDuringAPass s u hr hu
      rw [core_run_succ_of_next (step_enc_withByteSource hm hr hu src)]
      exact ih (hmode.trans hm) (hhost.trans hmoves) hrun

/-! ## From Start to the end marker -/

/-- What Start leaves meets the invariant, whatever the state before, if the cursors do. -/
theorem inv_startEnc (hb : s.byteSource.pos ≤ s.byteSource.bytes.length)
    (hp : s.pixelSource.pos ≤ s.pixelSource.bytes.length) (w h : U32) (c cs : Byte) : Inv (startEnc w h c cs s) := by
  have hreset : Inv { State.reset with
      n := s.n, byteSource := s.byteSource, pixelSource := s.pixelSource, byteSink := s.byteSink,
      pixelSink := s.pixelSink, hostMoves := s.hostMoves } :=
    { resetMeetsInvariant with
      below_budget := nofun
      at_budget := nofun
      budget := by rintro (hphase | hphase) <;> cases hphase
      byte_cursor := hb
      pixel_cursor := hp }
  exact hreset.hostMove (.startEnc w h c cs)

theorem startCommon_histRead (mode : Mode) (s : State) (i : Fin 64) :
    (startCommon mode s).histRead i = Config.slotInit := by
  simp [State.histRead, startCommon]

/-- After the header steps the decoder follows the encoder: no pixel is out, the two tables are the same, and the
slot of the initial `PREV` holds a pixel of another hash (R192). -/
theorem follows_after_headers (hc : Config.legalChannels img.channels = true) (he : e.pixelSource = ⟨img.pixels, 0⟩)
    (hd : d.pixelSink = []) (j : Nat) :
    Follows img
      (encHeader img.width img.height img.channels img.colorspace
        (startEnc img.width img.height img.channels img.colorspace e))
      (decHeader img.width img.height img.channels img.colorspace ((startDec d).advance j)) := by
  rw [encHeader_legal hc, decHeader_legal hc]
  constructor
  case mode | phase | prev | budget | channels | counted => rfl
  case header => exact ⟨rfl, rfl⟩
  case source => exact congrArg Source.bytes he
  case written => simp [startEnc, startDec, startCommon, hd, he]
  case table => exact fun _ _ => rfl
  case slot =>
    have hne : hashPixel Config.slotInit ≠ hashPixel Config.prevInit := by decide
    exact fun hslot => absurd ((congrArg hashPixel (startCommon_histRead .enc e _)).symm.trans hslot) hne

/-- An `ENC` pass after Start: up to the end marker a decoder that has read the header can follow it. -/
theorem exists_encoder_run (h : Inv s) (hm : s.mode = .enc) (hp : s.phase = .header)
    (hlegal : Config.legalChannels s.channels = true)
    (hl : s.width.toNat * s.height.toNat * s.channels.toNat ≤ s.pixelSource.rest.length) :
    ∃ k t bytes, core.run k s = .next (succeed (emit .endMarker t)) ∧ Inv t ∧ t.phase = .padding ∧
      t.pixelSource.pos = s.pixelSource.pos + s.width.toNat * s.height.toNat * s.channels.toNat ∧
      t.byteSink = s.byteSink ++ encode (.header s.width s.height s.channels s.colorspace) ++ bytes ∧
      ∀ img d, Follows img (encHeader s.width s.height s.channels s.colorspace s) d → CatchesUp img bytes t d := by
  have hheader : step s = .next (encHeader s.width s.height s.channels s.colorspace s) := by
    rw [step_of_enc (by rw [hp]; rfl) hm, encStep_header hm hp]
  have hinv := h.encHeader hm hp
  rw [encHeader_legal hlegal] at hheader hinv ⊢
  have hn := pixelBudget_toNat s.width s.height
  have hphase := (phaseAfterHeader_cases (pixelBudget s.width s.height)).imp And.left And.left
  obtain ⟨t, chunks, hcodes, ht, htm, htp, hcatch⟩ := exists_codes_followed hinv hm hphase
    (by rw [hn, (h.fresh hp).1]; rfl) hl
  have hmarker : step t = .next (succeed (emit .endMarker t)) := by
    rw [step_of_enc (by rw [htp]; rfl) htm, encStep_padding htm htp]
  refine ⟨s.width.toNat * s.height.toNat + 2, t, _, ?_, ht, htp, hcodes.source, hcodes.sink, hcatch⟩
  rw [core_run_succ_of_next hheader, core_run_add 1 hcodes.run, core_run_succ_of_next hmarker]
  rfl

/-- A `DEC` pass after Start, on a stream whose chunks bring it up to date with an encoder at its end marker. -/
theorem exists_decoder_run {bytes : List Byte} (hm : d.mode = .dec) (hp : d.phase = .header) (htp : t.phase = .padding)
    (hrest : d.byteSource.rest =
      encode (.header img.width img.height img.channels img.colorspace) ++ (bytes ++ encode .endMarker))
    (hlegal : Config.legalChannels img.channels = true)
    (hcatch : CatchesUp img bytes t (decHeader img.width img.height img.channels img.colorspace (d.advance 14))) :
    ∃ k u, core.run k d = .next (succeed (u.advance 8)) ∧ Follows img t u := by
  have hheader : step d = .next (decHeader img.width img.height img.channels img.colorspace (d.advance 14)) := by
    rw [step_of_item (i := .header ..) hm hp (hrest ▸ decodeHeader_encode ..)]
    exact exec_dec_header hp hm
  have hchunks : (decHeader img.width img.height img.channels img.colorspace (d.advance 14)).byteSource.rest =
      bytes ++ encode .endMarker := by
    rw [decHeader_legal hlegal]
    dsimp only [advance_byteSource]
    rw [Source.advance_rest, hrest]
    rfl
  obtain ⟨j, u, hrun, hfollows, hmarker⟩ := hcatch _ hchunks
  have hup : u.phase = .padding := hfollows.phase.trans htp
  have hend : step u = .next (succeed (u.advance 8)) := by
    rw [step_of_item (i := .endMarker) hfollows.mode hup (hmarker ▸ decodeMarker_encode [])]
    exact exec_dec_endMarker hup hfollows.mode
  refine ⟨j + 1 + 1, u, ?_, hfollows⟩
  rw [core_run_succ_of_next hheader, core_run_add 1 hrun, core_run_succ_of_next hend]
  rfl

/-! ## The host's two moves before each pass (R97) -/

theorem core_run_hostMove {m : HostMove} {ms : List HostMove} (hr : s.phase.running = false)
    (hm : s.hostMoves = m :: ms) (k : Nat) : core.run (k + 1) s = core.run k (hostMove m { s with hostMoves := ms }) :=
  core_run_succ_of_next (step_of_hostMoves hr hm)

theorem core_run_bindEnc_startEnc {pixels : List Byte} {w h : U32} {c cs : Byte} (hr : s.phase.running = false)
    (hm : s.hostMoves = [.bindEnc pixels, .startEnc w h c cs]) (k : Nat) :
    core.run (k + 2) s = core.run k (startEnc w h c cs (hostMove (.bindEnc pixels) { s with hostMoves := [] })) :=
  (core_run_hostMove hr hm (k + 1)).trans
    (core_run_hostMove (s := hostMove (.bindEnc pixels) { s with hostMoves := [.startEnc w h c cs] }) hr rfl k)

theorem core_run_bindDec_startDec {stream : List Byte} (hr : s.phase.running = false)
    (hm : s.hostMoves = [.bindDec stream, .startDec]) (k : Nat) :
    core.run (k + 2) s = core.run k (startDec (hostMove (.bindDec stream) { s with hostMoves := [] })) :=
  (core_run_hostMove hr hm (k + 1)).trans
    (core_run_hostMove (s := hostMove (.bindDec stream) { s with hostMoves := [.startDec] }) hr rfl k)

/-! ## The passes the host asks for -/

/-- `bytes` are the chunks of `img`, written by an encoder now at its end marker in `t`: a decoder that has read the
header reads them. -/
structure CodesImage (img : Image) (bytes : List Byte) (t : State) : Prop where
  phase : t.phase = .padding
  run : t.run = 0
  taken : t.pixelSource.pos = img.pixels.length
  catchesUp : ∀ d : State, d.pixelSink = [] →
    CatchesUp img bytes t (decHeader img.width img.height img.channels img.colorspace ((startDec d).advance 14))

/-- The stream of these chunks: the header, the chunks, the end marker (R65). -/
def Image.stream (img : Image) (bytes : List Byte) : List Byte :=
  encode (.header img.width img.height img.channels img.colorspace) ++ (bytes ++ encode .endMarker)

/-- The host binds an image and starts an `ENC` pass. The invariant holds of the state after Start but for the byte
source, whose cursor may stand anywhere; so the pass is followed on an empty one. -/
theorem exists_encoder_pass (hr : s.phase.running = false)
    (hmoves : s.hostMoves = [.bindEnc img.pixels, .startEnc img.width img.height img.channels img.colorspace])
    (hlegal : Config.legalChannels img.channels = true)
    (hl : img.pixels.length = img.width.toNat * img.height.toNat * img.channels.toNat) :
    ∃ k u bytes t, core.run k s = .next u ∧ Successful u ∧ u.byteSink = img.stream bytes ∧ CodesImage img bytes t := by
  have hinv : Inv (startEnc img.width img.height img.channels img.colorspace
      (withByteSource ⟨[], 0⟩ (hostMove (.bindEnc img.pixels) { s with hostMoves := [] }))) :=
    inv_startEnc (Nat.zero_le _) (Nat.zero_le _) _ _ _ _
  obtain ⟨k, t, bytes, hrun, ht, htp, hsource, hsink, hcatch⟩ := exists_encoder_run hinv rfl rfl hlegal hl.ge
  refine ⟨k + 2, withByteSource s.byteSource (succeed (emit .endMarker t)), bytes, t, ?_, ⟨rfl, rfl⟩, ?_, htp, ?_, ?_,
    fun d hd => hcatch img _ (follows_after_headers hlegal rfl hd 14)⟩
  · exact (core_run_bindEnc_startEnc hr hmoves k).trans (core_run_enc_withByteSource rfl rfl hrun s.byteSource)
  · rw [Image.stream, ← List.append_assoc]
    exact congrArg (· ++ encode .endMarker) hsink
  · exact ht.run_flushed (by rw [htp]; decide) (by rw [htp]; decide)
  · exact (hsource.trans (Nat.zero_add _)).trans hl.symm

/-- The host binds the stream of an image and starts a `DEC` pass: it puts out the image and its header. -/
theorem exists_decoder_pass {bytes : List Byte} (hr : s.phase.running = false)
    (hmoves : s.hostMoves = [.bindDec (img.stream bytes), .startDec])
    (hlegal : Config.legalChannels img.channels = true) (h : CodesImage img bytes t) :
    ∃ k u, core.run k s = .next u ∧ Successful u ∧ u.pixelSink = img.pixels ∧
      u.hostHeader = some (img.width, img.height, img.channels, img.colorspace) := by
  obtain ⟨k, u, hrun, hfollows⟩ := exists_decoder_run
    (d := startDec (hostMove (.bindDec (img.stream bytes)) { s with hostMoves := [] })) rfl rfl h.phase rfl hlegal
    (h.catchesUp _ rfl)
  have hwritten := hfollows.written
  rw [h.run, h.taken, List.take_length] at hwritten
  refine ⟨k + 2, succeed (u.advance 8), (core_run_bindDec_startDec hr hmoves k).trans hrun, ⟨rfl, rfl⟩, ?_, ?_⟩
  · simpa using hwritten
  · exact (hostHeader_over (s := succeed (u.advance 8)) rfl hfollows.mode hfollows.header.1).trans
      (congrArg some hfollows.header.2)

end Sys2Proof.Machine

/-! # The statements of 42_decoder.md: the round trip -/

namespace Sys2Proof.Machine

/-- Settles O57: the decoder follows the encoder from the header steps on (`Follows`), so at the end marker it has put
out all that the encoder took. -/
theorem decodeInvertsEncodeOnImages : Obligations.DecodeInvertsEncodeOnImages := by
  intro s1 s2 w h c cs image hr1 hr2 hlegal hlength
  obtain ⟨k1, t1, bytes, t, hrun1, hsuccess1, hstream, hcodes⟩ := exists_encoder_pass (img := ⟨w, h, c, cs, image⟩)
    (s := { s1 with hostMoves := [.bindEnc image, .startEnc w h c cs] }) hr1 rfl hlegal hlength
  obtain ⟨k2, t2, h2⟩ := exists_decoder_pass
    (s := { s2 with hostMoves := [.bindDec t1.byteSink, .startDec] }) hr2 (by rw [hstream]) hlegal hcodes
  exact ⟨k1, t1, hrun1, hsuccess1, k2, t2, h2⟩

end Sys2Proof.Machine

/-! # The statements of 60_exceptions.md: the header outputs -/

namespace Sys2Proof.Machine

variable {s t : State}

theorem Phase.over_of_running {p : Phase} (h : p.running = true) : p.over = false := by
  obtain rfl | rfl | rfl := Phase.running_iff.mp h <;> rfl

/-- In a `DEC` pass only a header step that matched the magic makes the header registers hold a value (R100). -/
theorem PassStep.headerValid_eq_or_decHeader (hst : PassStep s t) (hm : s.mode = .dec) :
    t.headerValid = s.headerValid ∨ (s.phase = .header ∧ ∃ w h c cs u, t = decHeader w h c cs u) := by
  cases hst with
  | readHeader w h c cs _ hp _ => exact .inr ⟨hp, w, h, c, cs, _, rfl⟩
  | underrun _ _ | badMagic _ _ _ | badPadding _ _ _ | readMarker _ _ _ => exact .inl rfl
  | readPixel cur k _ _ =>
    rw [commit_eq]
    exact .inl rfl
  | readRun length _ _ _ =>
    obtain ⟨hist, sink, pos, e⟩ := replay_frame (clippedLength s length) (s.advance 1)
    rw [e, endOfPixels_eq]
    exact .inl rfl
  | writeHeader hm' _ | writeMarker hm' _ => cases hm.symm.trans hm'
  | takePixel he => cases hm.symm.trans he.1

/-- A header step that matched the magic ends the pass only by `BAD_CHANNELS` (R100, R164). -/
theorem decHeader_cause_of_passOver {w h : U32} {c cs : Byte} (ho : PassOver (decHeader w h c cs s)) :
    (decHeader w h c cs s).cause = .badChannels := by
  cases hc : Config.legalChannels c with
  | true =>
    rw [decHeader_legal hc] at ho
    obtain ⟨e, -⟩ | ⟨e, -⟩ := phaseAfterHeader_cases (pixelBudget w h) <;> simp [PassOver, e] at ho
  | false =>
    rw [decHeader_illegal hc]
    rfl

/-- A header step that ends a `DEC` pass leaves the header registers with a value by `BAD_CHANNELS` only (R169). -/
theorem PassStep.headerValid_of_header_end (hst : PassStep s t) (h : Inv s) (hm : s.mode = .dec)
    (hp : s.phase = .header) (ho : PassOver t) (hc : t.cause ≠ .badChannels) : t.headerValid = false := by
  obtain e | ⟨-, w, ht, c, cs, u, rfl⟩ := hst.headerValid_eq_or_decHeader hm
  · exact e.trans (h.header_unread hm (.inl hp))
  · exact absurd (decHeader_cause_of_passOver ho) hc

/-- A later step of a `DEC` pass keeps the value the header step gave the header registers (R169). -/
theorem PassStep.headerValid_past_header (hst : PassStep s t) (h : Inv s) (hm : s.mode = .dec)
    (hr : s.phase.running = true) (hp : s.phase ≠ .header) : t.headerValid = true := by
  have hs : s.headerValid = true := by
    obtain e | e | e := Phase.running_iff.mp hr
    · exact absurd e hp
    · exact h.header_read (.inl e)
    · exact h.header_read (.inr (.inl e))
  obtain e | ⟨e, -⟩ := hst.headerValid_eq_or_decHeader hm
  · exact e.trans hs
  · exact absurd e hp

/-- Settles O54: whether the header registers hold a value when the pass ends is `headerValid`; past the header step
they are as it left them. -/
theorem headerOutputsOfEachOutcome : Obligations.HeaderOutputsOfEachOutcome := by
  intro s t h hm hr hstep
  have hst : PassStep s t := passStep_of_step hr hstep
  obtain ⟨hmode, -, hregs, -⟩ := modeAndHeaderFixedDuringAPass s t hr hstep
  have htm : t.mode = .dec := hmode.trans hm
  refine ⟨fun hrun => hostHeader_of_not_over (Phase.over_of_running hrun), fun hp ho => ?_, fun hp ho => ?_⟩
  · split
    · next hc =>
      have hv : t.headerValid = true := (stepKeepsInvariant s t h hstep).header_read (.inr (.inr (.inr hc)))
      exact hostHeader_over (Phase.over_iff.mpr ho) htm hv
    · next hc => exact hostHeader_invalid (hst.headerValid_of_header_end h hm hp ho hc)
  · obtain ⟨hw, hh, hc, hcs⟩ := hregs (.inl hp)
    rw [hostHeader_over (Phase.over_iff.mpr ho) htm (hst.headerValid_past_header h hm hr hp), hw, hh, hc, hcs]

end Sys2Proof.Machine

/-! # The statements of 70_reset_and_hazards.md -/

namespace Sys2Proof.Machine

variable {s t : State}

/-! ## A pass always ends (R188) -/

/-- A running pass always has a step, and it keeps `Inv` (R30). -/
theorem exists_step_of_running (h : Inv s) (hr : s.phase.running = true) : ∃ t, step s = .next t ∧ Inv t := by
  obtain ⟨t, hstep⟩ | ⟨hr', -⟩ := everyStepHasAMeaning s
  · exact ⟨t, hstep, stepKeepsInvariant s t h hstep⟩
  · cases hr.symm.trans hr'

/-- A step out of `HEADER` ends the pass or leads past the header (R21). -/
theorem PassStep.over_or_past_header (hst : PassStep s t) (hp : s.phase = .header) :
    PassOver t ∨ t.phase = .pixels ∨ t.phase = .padding := by
  obtain ⟨e, -⟩ | ⟨e, -⟩ | ⟨e, -⟩ | e := hst.phase_of_header hp
  · exact .inr (.inl e)
  · exact .inr (.inr e)
  · exact .inl (.inl e)
  · exact .inl (.inr e)

/-- A step out of `PIXELS`, in either mode, moves `POS` on and stays in the pass, or faults (R15, R21). -/
theorem fault_or_pos_lt_of_pixels_step (h : Inv s) (hp : s.phase = .pixels) (hstep : step s = .next t) :
    t.phase = .fault ∨ (s.pos.toNat < t.pos.toNat ∧ (t.phase = .pixels ∨ t.phase = .padding)) := by
  have hr : s.phase.running = true := Phase.running_iff.mpr (.inr (.inl hp))
  have hpos : t.phase ≠ .fault → s.pos.toNat < t.pos.toNat := fun hf => by
    cases hm : s.mode with
    | dec => exact ((chunkStepOutputMatchesPosition s t h ⟨hm, hp⟩ hstep).1 hf).1
    | enc =>
      cases (step_of_encoding ⟨hm, hp⟩).symm.trans hstep
      cases hn : nextPixel s with
      | none =>
        rw [encPixelStep_of_none hn] at hf
        exact absurd rfl hf
      | some cur =>
        have hb := h.below_budget hp
        have hpos1 : (s.pos + 1).toNat = s.pos.toNat + 1 := pos_add_toNat (k := 1) (by omega) hb.le
        rw [(encPixelStep_counts hn).2.1, hpos1]
        exact Nat.lt_succ_self _
  obtain e | e | e := (passStep_of_step hr hstep).phase_of_pixels hp
  · exact .inr ⟨hpos (by simp [e]), .inl e⟩
  · exact .inr ⟨hpos (by simp [e]), .inr e⟩
  · exact .inl e

/-- Past the header step a pass ends within one step for each pixel left and one for the end marker. -/
theorem exists_run_passOver (h : Inv s) (hp : s.phase = .pixels ∨ s.phase = .padding) :
    ∃ k t, core.run k s = .next t ∧ PassOver t ∧ k ≤ s.n.toNat - s.pos.toNat + 1 := by
  induction hleft : s.n.toNat - s.pos.toNat using Nat.strong_induction_on generalizing s with
  | _ left ih =>
    have hr : s.phase.running = true := Phase.running_iff.mpr (.inr hp)
    obtain ⟨t, hstep, ht⟩ := exists_step_of_running h hr
    have hlast : PassOver t → ∃ k t, core.run k s = .next t ∧ PassOver t ∧ k ≤ left + 1 := fun ho =>
      ⟨1, t, core_run_succ_of_next hstep, ho, Nat.le_add_left 1 left⟩
    obtain hpix | hpad := hp
    · obtain hf | ⟨hpos, hpt⟩ := fault_or_pos_lt_of_pixels_step h hpix hstep
      · exact hlast (.inr hf)
      · have hb := h.below_budget hpix
        have hn : t.n = s.n := (modeAndHeaderFixedDuringAPass s t hr hstep).2.2.2 (by simp [hpix])
        have hless : t.n.toNat - t.pos.toNat < left := by
          rw [hn]
          omega
        obtain ⟨k, u, hrun, ho, hk⟩ := ih _ hless ht hpt rfl
        exact ⟨k + 1, u, (core_run_succ_of_next hstep).trans hrun, ho, by omega⟩
    · exact hlast ((passStep_of_step hr hstep).phase_of_padding hpad)

/-- Settles O55: the header step ends the pass or leads past the header; from there `exists_run_passOver` counts the
steps. -/
theorem everyPassEnds : Obligations.EveryPassEnds := by
  intro s h hr
  obtain hp | hp := Phase.running_iff.mp hr
  · obtain ⟨t, hstep, ht⟩ := exists_step_of_running h hr
    obtain ho | hpt := (passStep_of_step hr hstep).over_or_past_header hp
    · exact ⟨1, t, core_run_succ_of_next hstep, ho, fun hne => absurd hp hne⟩
    · obtain ⟨k, u, hrun, ho, -⟩ := exists_run_passOver ht hpt
      exact ⟨k + 1, u, (core_run_succ_of_next hstep).trans hrun, ho, fun hne => absurd hp hne⟩
  · obtain ⟨k, t, hrun, ho, hk⟩ := exists_run_passOver h hp
    exact ⟨k, t, hrun, ho, fun _ => hk⟩

/-! ## The initial run (R192) -/

/-- Short of the last one, a decoded pixel leaves the pass in its pixel phase (R145). -/
theorem decoding_afterPixels_one (hd : Decoding s) (hb : s.pos.toNat + 1 < s.n.toNat) (p : Pixel) :
    Decoding (afterPixels 1 p s) := by
  have hne : s.pos + 1 ≠ s.n := by bv_omega
  exact ⟨hd.1, (if_neg hne).trans hd.2⟩

/-- Settles O52: the decoder's Run writes slot 53, the hash of `PREV`, which Index then reads; the encoder's pixel
continues a run, which writes no slot. -/
theorem initialRunAsymmetry : Obligations.InitialRunAsymmetry := by
  intro s hp hprev _ hb
  refine ⟨fun hm => ?_, fun hm hn => ?_⟩
  · have hd : Decoding s := ⟨hm, hp⟩
    have hrun := runExecutes s 1 hd (by omega) le_rfl (by decide)
    rw [Nat.min_eq_left (by omega), hprev] at hrun
    have hindex := indexExecutes _ 53 (by decide) (decoding_afterPixels_one hd hb ⟨0, 0, 0, 255⟩)
    have hslot : (hashPixel ⟨0, 0, 0, 255⟩).val = 53 := by decide
    have hhist : (afterPixels 1 ⟨0, 0, 0, 255⟩ s).hist = s.hist.set 53 ⟨0, 0, 0, 255⟩ := by
      simp only [afterPixels, hslot]
    have hread : (afterPixels 1 ⟨0, 0, 0, 255⟩ s).hist[53] = ⟨0, 0, 0, 255⟩ := by
      rw [hhist, Vector.getElem_set_self]
    exact ⟨_, _, hrun, hindex, hread, hhist⟩
  · have he : Encoding s := ⟨hm, hp⟩
    refine ⟨_, step_of_encoding he, ?_⟩
    rw [encPixelStep_of_repeat (hprev ▸ hn)]
    rfl

end Sys2Proof.Machine
